-- ==== Sys2Proof/Word.lean ====
section
/-! DEFINITION. The three word widths of CRCGEN: a data byte (BYTE_WIDTH = 8), the CRC register
(WIDTH = 16) and a command word (CW_WIDTH = 12), from the parameter table of 00_scope.md (rules
R5, R6, R30). Bit 0 is the least significant bit (00_scope.md section 6.1). -/

namespace Sys2Proof

/-- A data byte and the value of the `sum` register, 8 bits, unsigned (R11, R22). -/
abbrev Byte := BitVec 8

/-- The value of the `crc` register and of the `crc_out` output, 16 bits, unsigned (R10, R13). -/
abbrev CrcWord := BitVec 16

/-- A command word, 12 bits (R30). -/
abbrev CommandWord := BitVec 12

end Sys2Proof
end

