-- ==== Sys2Proof/Syntax.lean ====
section
/-! DEFINITION. The commands of CRCGEN as syntax: one constructor per row of spec/opcode_table.json
(30_encoding.md rule R31), in the table's order. Only BYTE has an operand, the 8-bit data byte `d`
(R33); NOP and INIT ignore their other bits (R35), so these constructors have none. -/

namespace Sys2Proof

/-- A decoded command (R31). -/
inductive Instr where
  /-- NOP, `op = 00` (R63) -/
  | nop
  /-- INIT.0, `op = 01`, no unit selected (R66) -/
  | init0
  /-- INIT.S, `op = 01`, SUM unit (R42) -/
  | initS
  /-- INIT.C, `op = 01`, CRC unit (R53) -/
  | initC
  /-- INIT.CS, `op = 01`, both units (R64) -/
  | initCS
  /-- BYTE.0 d, `op = 10`, no unit selected (R67) -/
  | byte0 (d : Byte)
  /-- BYTE.S d, `op = 10`, SUM unit (R43) -/
  | byteS (d : Byte)
  /-- BYTE.C d, `op = 10`, CRC unit (R54) -/
  | byteC (d : Byte)
  /-- BYTE.CS d, `op = 10`, both units (R65) -/
  | byteCS (d : Byte)
  /-- The reserved operation `op = 11` (R34, R68). The spec defines no operand; `low` keeps the ten
  bits below `op`, so that the 1024 reserved words stay apart (DESIGN CHOICE, log entry 6). -/
  | reserved (low : BitVec 10)
deriving DecidableEq, Repr

end Sys2Proof
end

