-- ==== Sys2Proof/WellFormed.lean ====
section
/-! DEFINITION. Which commands a host may issue: every command but the reserved one. Operand widths
are in the types, so the reserved operation is the one check there is (30_encoding.md rule R34:
"A host must not issue them"; R33: all 256 values of `d` are legal). -/

namespace Sys2Proof

/-- The command has a meaning: its `op` is not the reserved `11` (R34, R80). -/
def Instr.wellFormed : Instr → Bool
  | .nop => true
  | .init0 => true
  | .initS => true
  | .initC => true
  | .initCS => true
  | .byte0 _ => true
  | .byteS _ => true
  | .byteC _ => true
  | .byteCS _ => true
  | .reserved _ => false

end Sys2Proof
end

