-- ==== Sys2Proof/Decode.lean ====
section
/-! DEFINITION. The fields of a command word (30_encoding.md rule R30), the decoder (R31), the decode
table as data (R31), the encoder (R39) and the reading of a word given as a number. The block fetches
nothing from a memory (R12 a, R28), so there are no instruction bytes: a command word is presented
whole, and the number of a word is its value, bit 0 least significant. -/

namespace Sys2Proof

/-- `op = cw[11:10]` (R30). -/
def opField (cw : CommandWord) : BitVec 2 := cw.extractLsb' 10 2

/-- `uc = cw[9]`: the command applies to the CRC unit (R30, R32). -/
def ucField (cw : CommandWord) : Bool := cw.getLsbD 9

/-- `us = cw[8]`: the command applies to the SUM unit (R30, R32). -/
def usField (cw : CommandWord) : Bool := cw.getLsbD 8

/-- `d = cw[7:0]`, the data byte as it stands (R30, R33). -/
def dField (cw : CommandWord) : Byte := cw.extractLsb' 0 8

/-- The ten bits below `op`, all that tells two reserved words apart. -/
def lowField (cw : CommandWord) : BitVec 10 := cw.extractLsb' 0 10

/-- `op = 01`: the INIT command of the selected units, `uc` before `us` (R31, R32). -/
def initForm : Bool → Bool → Instr
  | false, false => .init0
  | false, true => .initS
  | true, false => .initC
  | true, true => .initCS

/-- `op = 10`: the BYTE command of the selected units with its data byte (R31, R32, R33). -/
def byteForm : Bool → Bool → Byte → Instr
  | false, false, d => .byte0 d
  | false, true, d => .byteS d
  | true, false, d => .byteC d
  | true, true, d => .byteCS d

/-- Decoding, total, first on `op`, then on `usel` (R31). The ignored bits of NOP and INIT are
dropped (R35). A reserved word is read as the reserved command, by name (R34). -/
def decode (cw : CommandWord) : Instr :=
  if opField cw = 0b00#2 then .nop
  else if opField cw = 0b01#2 then initForm (ucField cw) (usField cw)
  else if opField cw = 0b10#2 then byteForm (ucField cw) (usField cw) (dField cw)
  else .reserved (lowField cw)

/-- The word with the given fields: `op ++ uc ++ us ++ d` (R30). -/
def formatC (op : BitVec 2) (uc us : Bool) (d : Byte) : CommandWord :=
  op ++ BitVec.ofBool uc ++ BitVec.ofBool us ++ d

/-- The canonical word of a command (R39): ignored bits are zero. R39 gives the reserved operation
no word; here it gets the word whose bits it keeps (log entry 6). -/
def encode : Instr → CommandWord
  | .nop => formatC 0b00 false false 0x00
  | .init0 => formatC 0b01 false false 0x00
  | .initS => formatC 0b01 false true 0x00
  | .initC => formatC 0b01 true false 0x00
  | .initCS => formatC 0b01 true true 0x00
  | .byte0 d => formatC 0b10 false false d
  | .byteS d => formatC 0b10 false true d
  | .byteC d => formatC 0b10 true false d
  | .byteCS d => formatC 0b10 true true d
  | .reserved low => 0b11#2 ++ low

/-- One row of the decode table of R31: a word selects the row when `cw AND mask = match`. `words`
is the table's count of the words that select it. -/
structure OpcodeRow where
  pattern : CommandWord
  mask : CommandWord
  words : Nat
deriving DecidableEq, Repr

/-- The row of R31's table that a command belongs to. -/
def opcodeRow : Instr → OpcodeRow
  | .nop => ⟨0x000, 0xC00, 1024⟩
  | .init0 => ⟨0x400, 0xF00, 256⟩
  | .initS => ⟨0x500, 0xF00, 256⟩
  | .initC => ⟨0x600, 0xF00, 256⟩
  | .initCS => ⟨0x700, 0xF00, 256⟩
  | .byte0 _ => ⟨0x800, 0xF00, 256⟩
  | .byteS _ => ⟨0x900, 0xF00, 256⟩
  | .byteC _ => ⟨0xA00, 0xF00, 256⟩
  | .byteCS _ => ⟨0xB00, 0xF00, 256⟩
  | .reserved _ => ⟨0xC00, 0xC00, 1024⟩

/-- The decode table of R31, its ten rows in its order. -/
def opcodeTable : List OpcodeRow :=
  [opcodeRow .nop, opcodeRow .init0, opcodeRow .initS, opcodeRow .initC, opcodeRow .initCS,
    opcodeRow (.byte0 0), opcodeRow (.byteS 0), opcodeRow (.byteC 0), opcodeRow (.byteCS 0),
    opcodeRow (.reserved 0)]

/-- The word selects the row (R31). -/
def OpcodeRow.selects (r : OpcodeRow) (cw : CommandWord) : Bool :=
  cw &&& r.mask == r.pattern

/-- Why a number is no command of this block. -/
inductive DecodeError where
  /-- The number needs more than the 12 bits of a command word; there is "no way for a command to be
  longer or shorter than 12 bits" (R30). Safe: nothing is decoded (log entry 8). -/
  | widerThanTwelveBits
deriving DecidableEq, Repr

/-- The command word whose value is `n`, or the reason there is none (R30). -/
def commandWordOfNat (n : Nat) : Except DecodeError CommandWord :=
  if n < 4096 then .ok (BitVec.ofNat 12 n) else .error .widerThanTwelveBits

/-- Decoding of a number, total, with the rejection named. -/
def decodeNat (n : Nat) : Except DecodeError Instr :=
  match commandWordOfNat n with
  | .ok cw => .ok (decode cw)
  | .error e => .error e

/-- The command word whose lowest `nbits` bits are those of `w` and whose other bits are zero, where
there is one. -/
def tableCommandWord (nbits w : Nat) : Option CommandWord :=
  match commandWordOfNat (w % 2 ^ nbits) with
  | .ok cw => some cw
  | .error _ => none

/-- What the decoder reads from a word numbered as spec/opcode_table.json numbers its bits. -/
def decodeTableWord (nbits w : Nat) : Option Instr :=
  (tableCommandWord nbits w).map decode

end Sys2Proof
end

