-- ==== Sys2Proof/Config.lean ====
section
/-! DEFINITION. The constants of the hardware (00_scope.md rules R5, R6, R7) and the parameters the
spec leaves OPEN, which only the host's side reads (CRC_WIRE_ORDER R24, INTEG_SEL R74, the widths of
the LEN and CMD fields R72). An open parameter is an opaque constant: no proof can see its value. -/

namespace Sys2Proof

/-- The order of the two CRC bytes in a frame, the values of CRC_WIRE_ORDER (R24). -/
inductive WireOrder where
  /-- high byte first, then low byte -/
  | msbFirst
  /-- low byte first, then high byte -/
  | lsbFirst
deriving DecidableEq, Repr, Inhabited

/-- The two integrity functions of the document, the values of INTEG_SEL (R4, R74). -/
inductive IntegrityFunction where
  /-- the 8-bit sum of the bytes modulo 256 (R40) -/
  | checksum
  /-- the 16-bit CRC (R50) -/
  | crc16
deriving DecidableEq, Repr, Inhabited

/-- What the spec leaves open of a frame's layout: the widths of LEN and CMD in bytes (U9,
91_not_in_source.md N16). Both fields "are always there" (R72), so a width is given by the bytes beyond
the first. The order of LEN's bytes matters only where LEN is wider than one byte; the spec names none,
so both are admitted (DESIGN CHOICE, log entry 9). -/
structure FrameFormat where
  /-- bytes of LEN beyond the first -/
  lenExtra : Nat
  /-- bytes of CMD beyond the first -/
  cmdExtra : Nat
  /-- order of the bytes of LEN -/
  lenOrder : WireOrder
deriving DecidableEq, Repr, Inhabited

namespace Config

/-- POLY = 0x1021: x^16 + x^12 + x^5 + 1 with the x^16 term not written (R5, R51). -/
def poly : CrcWord := 0x1021

/-- INIT = 0xFFFF, the value INIT.C and reset load (R5, R53). It does not depend on XOROUT. -/
def crcInit : CrcWord := 0xFFFF

/-- SUM_INIT = 0x00, the checksum of the empty input (R6, R42). -/
def sumInit : Byte := 0x00

/-- XOROUT as the document's text has it, "no final XOR" (R5, R7; conflict C1 of
90_conflicts.md chooses this value for the hardware). -/
def documentXorout : CrcWord := 0x0000

/-- XOROUT of the catalogue's profile of the same name, the alternative of conflict C1 (R7). -/
def catalogueXorout : CrcWord := 0xFFFF

/-- The value of both frame delimiters, START and END (R72). -/
def delimiter : Byte := 0x7E

/-- CRC_WIRE_ORDER: OPEN, host side, not read by the block (R24; log entry 9). -/
opaque crcWireOrder : WireOrder

/-- INTEG_SEL: OPEN, host side, not read by the block (R74; log entry 9): the configuration table
"per command", given here from the bytes of the CMD field to the function. -/
opaque integSel : List Byte → IntegrityFunction

/-- The widths of LEN and CMD: OPEN, host side (U9, 91_not_in_source.md N16; log entry 9). -/
opaque frameFormat : FrameFormat

end Config

end Sys2Proof
end

