-- ==== Sys2Proof/Machine/State.lean ====
section
/-! DEFINITION. The state of CRCGEN: the two registers (10_state.md rules R10, R11), the two ghost
histories (R14) and, as the model's own field, what the host is going to present on the block's inputs
(R8). The reasons a step can stop, and the state after reset (R16). The block has nothing else (R12). -/

namespace Sys2Proof.Machine

/-- What the host presents on the block's two inputs for one step: the reset input and the command
input (R8). With neither, nothing is asked of the block in that step (log entry 2). -/
structure PortInput where
  /-- the reset input is asserted (R82, R90) -/
  reset : Bool
  /-- the command word on the command input, if one is presented (R30) -/
  cw : Option CommandWord
deriving DecidableEq, Repr

/-- A command word and no reset. -/
def PortInput.command (cw : CommandWord) : PortInput := ⟨false, some cw⟩

/-- Neither a command word nor reset. -/
def PortInput.idle : PortInput := ⟨false, none⟩

/-- The state. `crc` and `sum` are the whole hardware state (R10, R11, R17); `histC` and `histS` are
the spec's ghost histories, which no host can read (R14; log entry 7); `port` belongs to the host's
side, not to the block (log entry 1). -/
structure State where
  /-- the CRC register: the remainder before the final XOR (R10) -/
  crc : CrcWord
  /-- the SUM register: the sum modulo 256 (R11) -/
  sum : Byte
  /-- ghost `hist_c`: bytes the CRC unit absorbed since it was last initialised (R14) -/
  histC : List Byte
  /-- ghost `hist_s`: bytes the SUM unit absorbed since it was last initialised (R14) -/
  histS : List Byte
  /-- what the host will present, one item a step, the next one first (R8, R26; log entry 1) -/
  port : List PortInput
deriving DecidableEq, Repr

/-- The reasons a step faults: none. "the fault type of a model of this block is empty" (R86; R80). -/
inductive Fault where
deriving DecidableEq, Repr

/-- The reasons a step is refused. -/
inductive Refusal where
  /-- Raised by exec's arm of an instruction that has no meaning yet; no arm of this model is one.
  Safe. -/
  | notModelled (mnemonic : String)
  /-- Raised by the reserved command, a word with `op = 11`; `low` holds the word's other ten bits.
  The spec gives the word no meaning and asks a model to refuse it (R34, R68, R86). Safe: nothing can
  be proved of what comes after such a word. -/
  | reservedWord (low : BitVec 10)
deriving DecidableEq, Repr

/-- The machine right after reset (R16). The host's coming inputs are no part of what reset sets; none
are listed (log entry 1). -/
def State.reset : State where
  crc := Config.crcInit
  sum := Config.sumInit
  histC := []
  histS := []
  port := []

end Sys2Proof.Machine
end

