-- ==== Sys2Proof/Machine/Ops.lean ====
section
/-! DEFINITION. The step functions of the two units (`sum_step` of 40_checksum.md rule R41, `crc_step` of
41_crc16.md rule R51), the four register updates every command is made of, and what reset does (R16,
R90). The block raises no exception, so there is no exception entry and no return (R80, R83). -/

namespace Sys2Proof.Machine

/-- `sum_step(s, d)`: 8-bit addition, the carry out of bit 7 dropped (R41). -/
def sumStep (s d : Byte) : Byte := s + d

/-- One iteration of R51: shift left, drop bit 15, and XOR the polynomial when bit 15 was 1. -/
def crcShift (t : CrcWord) : CrcWord :=
  if t.getLsbD 15 then (t <<< 1) ^^^ Config.poly else t <<< 1

/-- `n` iterations of `crcShift`. -/
def crcShifts : Nat → CrcWord → CrcWord
  | 0, t => t
  | n + 1, t => crcShifts n (crcShift t)

/-- `crc_step(c, d)`: the byte is XORed into the top byte, then eight iterations (R51, R23). -/
def crcStep (c : CrcWord) (d : Byte) : CrcWord :=
  crcShifts 8 (c ^^^ (d.setWidth 16 <<< 8))

/-- Initialise the CRC unit: register and history (R53). -/
def initCrc (s : State) : State := { s with crc := Config.crcInit, histC := [] }

/-- Initialise the SUM unit: register and history (R42). -/
def initSum (s : State) : State := { s with sum := Config.sumInit, histS := [] }

/-- Absorb a byte into the CRC unit: register and history (R54). -/
def absorbCrc (d : Byte) (s : State) : State :=
  { s with crc := crcStep s.crc d, histC := s.histC ++ [d] }

/-- Absorb a byte into the SUM unit: register and history (R43). -/
def absorbSum (d : Byte) (s : State) : State :=
  { s with sum := sumStep s.sum d, histS := s.histS ++ [d] }

/-- The effect of the reset input: the registers and histories of R16, whatever they were (R90). What
the host will present next is not the block's and stays. -/
def applyReset (s : State) : State := { State.reset with port := s.port }

end Sys2Proof.Machine
end

