-- ==== Sys2Proof/Machine/Control.lean ====
section
/-! DEFINITION. The commands that are not one unit's: NOP, the forms that act on both units, the forms
that act on none, and the reserved operation (42_control_and_dual.md). -/

namespace Sys2Proof.Machine

/-- NOP: nothing changes (R63). -/
def execNop (s : State) : Host.Outcome State Fault Refusal := .next s

/-- INIT.0: no unit is selected, nothing changes (R66). -/
def execInit0 (s : State) : Host.Outcome State Fault Refusal := .next s

/-- INIT.CS: both units, each as if alone (R64). -/
def execInitCS (s : State) : Host.Outcome State Fault Refusal := .next (initSum (initCrc s))

/-- BYTE.0 d: no unit is selected, the byte is lost (R67). -/
def execByte0 (_d : Byte) (s : State) : Host.Outcome State Fault Refusal := .next s

/-- BYTE.CS d: both units absorb the same byte, each as if alone (R65). -/
def execByteCS (d : Byte) (s : State) : Host.Outcome State Fault Refusal :=
  .next (absorbSum d (absorbCrc d s))

/-- The reserved operation: "the model gives the word no meaning; there is no next state" (R68). -/
def execReserved (low : BitVec 10) (_s : State) : Host.Outcome State Fault Refusal :=
  .refused (.reservedWord low)

end Sys2Proof.Machine
end

