-- ==== Sys2Proof/Machine/Crc.lean ====
section
/-! DEFINITION. The commands of the CRC unit alone: INIT.C and BYTE.C (41_crc16.md). -/

namespace Sys2Proof.Machine

/-- INIT.C (R53). -/
def execInitC (s : State) : Host.Outcome State Fault Refusal := .next (initCrc s)

/-- BYTE.C d (R54). -/
def execByteC (d : Byte) (s : State) : Host.Outcome State Fault Refusal := .next (absorbCrc d s)

end Sys2Proof.Machine
end

