-- ==== Sys2Proof/Machine/Sum.lean ====
section
/-! DEFINITION. The commands of the SUM unit alone: INIT.S and BYTE.S (40_checksum.md). -/

namespace Sys2Proof.Machine

/-- INIT.S (R42). -/
def execInitS (s : State) : Host.Outcome State Fault Refusal := .next (initSum s)

/-- BYTE.S d (R43). -/
def execByteS (d : Byte) (s : State) : Host.Outcome State Fault Refusal := .next (absorbSum d s)

end Sys2Proof.Machine
end

