-- ==== Sys2Proof/Machine/Dispatch.lean ====
section
/-! DEFINITION. One arm per command, in the order of spec/opcode_table.json. -/

namespace Sys2Proof.Machine

/-- The meaning of a command. -/
def exec (i : Instr) (s : State) : Host.Outcome State Fault Refusal :=
  match i with
  | .nop => Sys2Proof.Machine.execNop s
  | .init0 => Sys2Proof.Machine.execInit0 s
  | .initS => Sys2Proof.Machine.execInitS s
  | .initC => Sys2Proof.Machine.execInitC s
  | .initCS => Sys2Proof.Machine.execInitCS s
  | .byte0 d => Sys2Proof.Machine.execByte0 d s
  | .byteS d => Sys2Proof.Machine.execByteS d s
  | .byteC d => Sys2Proof.Machine.execByteC d s
  | .byteCS d => Sys2Proof.Machine.execByteCS d s
  | .reserved low => Sys2Proof.Machine.execReserved low s

end Sys2Proof.Machine
end

