-- ==== Sys2Proof/Machine/Port.lean ====
section
/-! DEFINITION. How the block takes what the host presents: one item a step, in order (20_memory.md rule
R26), reset before any command (60_exceptions.md rule R82). This stands where other machines fetch. -/

namespace Sys2Proof.Machine

/-- One step's inputs taken by the block: reset wins and the command word of the same step is lost
(R82, R90); else a presented word is decoded and executed (R31); with neither, nothing changes (log
entry 2). -/
def accept (p : PortInput) (s : State) : Host.Outcome State Fault Refusal :=
  if p.reset then .next (applyReset s)
  else
    match p.cw with
    | some cw => exec (decode cw) s
    | none => .next s

/-- Take the next item the host presents. When the host presents nothing more the block keeps its state
(log entry 2). -/
def takeNext (s : State) : Host.Outcome State Fault Refusal :=
  match s.port with
  | [] => .next s
  | p :: rest => accept p { s with port := rest }

/-- The host presents these command words, one a step, before whatever it was going to present. -/
def present (ws : List CommandWord) (s : State) : State :=
  { s with port := ws.map PortInput.command ++ s.port }

/-- The host presents the word of the opcode table next; a number that is no command word puts nothing
on the command input (log entries 8 and 10). -/
def presentTableWord (nbits w : Nat) (s : State) : State :=
  { s with port := ⟨false, tableCommandWord nbits w⟩ :: s.port }

end Sys2Proof.Machine
end

