-- ==== Sys2Proof/Machine/Step.lean ====
section
/-! DEFINITION. The step function: the block takes what the host presents next (20_memory.md rules R25,
R26). -/

namespace Sys2Proof.Machine

/-- One atomic step. -/
def step (s : State) : Host.Outcome State Fault Refusal := takeNext s

/-- The word stands where the next step takes its command from: at the head of what the host presents
(log entry 10). -/
def State.withFetchWord (s : State) (nbits w : Nat) : State := presentTableWord nbits w s

end Sys2Proof.Machine
end

