-- ==== Sys2Proof/Machine/Outputs.lean ====
section
/-! DEFINITION. The two outputs, pure functions of the state, valid at every moment (10_state.md rule
R13). This is the one place that reads XOROUT (R7). -/

namespace Sys2Proof.Machine

/-- XOROUT of this hardware: the document's "no final XOR" (R7; conflict C1; log entry 4). -/
def xorout : CrcWord := Config.documentXorout

/-- `crc_out` of a block whose XOROUT is `x` (R13). -/
def crcOutWith (x : CrcWord) (s : State) : CrcWord := s.crc ^^^ x

/-- `crc_out` of this hardware (R13). -/
def crcOut (s : State) : CrcWord := crcOutWith xorout s

/-- `sum_out` (R13). -/
def sumOut (s : State) : Byte := s.sum

end Sys2Proof.Machine
end

