-- ==== Sys2Proof/Machine/Run.lean ====
section
/-! DEFINITION. Runs: a finite number of steps from a stated start state (43_host_protocol.md rule R78),
ended by the first refusal, which so marks the whole run (42_control_and_dual.md rule R68). -/

namespace Sys2Proof.Machine

/-- `k` steps from `s`: the host's `Host.Core.run` of this machine. -/
def runSteps (k : Nat) (s : State) : Host.Outcome State Fault Refusal := Host.Core.run core k s

/-- The run in which the host presents these words and the block takes them all, one a step (R26, R78). -/
def serve (ws : List CommandWord) (s : State) : Host.Outcome State Fault Refusal :=
  runSteps ws.length (present ws s)

/-- The READ at the end of a run (R37): an output of the state it ended in, none where the run was
refused. -/
def readAfter {α : Type} (out : State → α) : Host.Outcome State Fault Refusal → Option α
  | .next t => some (out t)
  | .fault _ => none
  | .refused _ => none

end Sys2Proof.Machine
end

