-- ==== Sys2Proof/Machine/HostSide.lean ====
section
/-! DEFINITION. The host's side, as procedures over the block (43_host_protocol.md): the macros of
30_encoding.md rule R38 run through `step`, the width of the integrity field (R73), computing it over a
span (R75), comparing it (R76) and the residue check (R61). None of it adds state or commands to the
block. The open parameters are arguments here; whole frames are in Machine/Frame.lean. -/

namespace Sys2Proof.Machine

/-- The command words of the macro `crc16_genibus(span)` (R38). -/
def crcMacro (span : List Byte) : List CommandWord :=
  encode .initC :: span.map fun d => encode (.byteC d)

/-- The command words of the macro `checksum(span)` (R38). -/
def sumMacro (span : List Byte) : List CommandWord :=
  encode .initS :: span.map fun d => encode (.byteS d)

/-- The command words of the macro `both(span)` (R38). -/
def bothMacro (span : List Byte) : List CommandWord :=
  encode .initCS :: span.map fun d => encode (.byteCS d)

/-- The call `crc16_genibus(span)` through the block (R38, R70). -/
def callCrc16 (x : CrcWord) (span : List Byte) (s : State) : Option CrcWord :=
  readAfter (crcOutWith x) (serve (crcMacro span) s)

/-- The call `checksum(span)` through the block (R38, R70). -/
def callChecksum (span : List Byte) (s : State) : Option Byte :=
  readAfter sumOut (serve (sumMacro span) s)

/-- The call `both(span)` through the block, both outputs read (R38, R70). -/
def callBoth (x : CrcWord) (span : List Byte) (s : State) : Option (CrcWord × Byte) :=
  readAfter (fun t => (crcOutWith x t, sumOut t)) (serve (bothMacro span) s)

/-- The width of the integrity field in bytes (R73). -/
def integrityWidth : IntegrityFunction → Nat
  | .checksum => 1
  | .crc16 => 2

/-- The high byte `v[15:8]` of a CRC (R24). -/
def hiByte (v : CrcWord) : Byte := v.extractLsb' 8 8

/-- The low byte `v[7:0]` of a CRC (R24). -/
def loByte (v : CrcWord) : Byte := v.extractLsb' 0 8

/-- The 16-bit value with these two bytes (R24). -/
def joinBytes (hi lo : Byte) : CrcWord := hi ++ lo

/-- The two bytes of a CRC in the order of the wire (R24, R75). -/
def placeCrc : WireOrder → CrcWord → List Byte
  | .msbFirst, v => [hiByte v, loByte v]
  | .lsbFirst, v => [loByte v, hiByte v]

/-- The value of a received CRC field; none where it is not two bytes (R76). -/
def assembleCrc : WireOrder → List Byte → Option CrcWord
  | .msbFirst, [a, b] => some (joinBytes a b)
  | .lsbFirst, [a, b] => some (joinBytes b a)
  | _, _ => none

/-- The value of a received checksum field; none where it is not one byte (R76). -/
def assembleSum : List Byte → Option Byte
  | [a] => some a
  | _ => none

/-- The integrity field the host computes over a span with the block, started in state `s` (R75). -/
def integrityField (order : WireOrder) (x : CrcWord) (f : IntegrityFunction) (span : List Byte)
    (s : State) : Option (List Byte) :=
  match f with
  | .checksum => (callChecksum span s).map fun v => [v]
  | .crc16 => (callCrc16 x span s).map (placeCrc order)

/-- The host's check of an inbound frame's integrity field: recompute over the span, assemble the
received field, compare (R76). A field of another width than R73's has no value of the function's width; the
answer on it is false (DESIGN CHOICE, log entry 16). -/
def checkField (order : WireOrder) (x : CrcWord) (f : IntegrityFunction) (span field : List Byte)
    (s : State) : Option Bool :=
  match f with
  | .checksum => (callChecksum span s).map fun v => decide (assembleSum field = some v)
  | .crc16 => (callCrc16 x span s).map fun v => decide (assembleCrc order field = some v)

/-- The value of `crc_out` after a span and its own CRC, high byte first, for XOROUT `x`: 0x0000 for
0x0000 and 0xE2F0 for 0xFFFF (R61). -/
def residueOut (x : CrcWord) : CrcWord := crcStep (crcStep 0 (hiByte x)) (loByte x) ^^^ x

/-- The residue check of a received span and CRC field, for `msb_first` only (R61). R61 speaks of the two CRC
bytes; on a field of another width the answer is false without a run, as in `checkField` (DESIGN
CHOICE, log entry 16). -/
def checkResidue (x : CrcWord) (span field : List Byte) (s : State) : Option Bool :=
  match field with
  | [a, b] => (callCrc16 x (span ++ [a, b]) s).map fun v => decide (v = residueOut x)
  | _ => some false

end Sys2Proof.Machine
end

