-- ==== Sys2Proof/Machine/Frame.lean ====
section
/-! DEFINITION. The frames of the host (43_host_protocol.md): the layout
`[START][LEN][CMD][PAYLOAD...][INTEGRITY][END]` and its span (R72, R73), building an outbound frame (R75),
taking the span and the field out of received bytes and checking them (R76). The widths of LEN and CMD and
the choice of the function are arguments; the last definitions take them from Config. -/

namespace Sys2Proof.Machine

/-- The width of LEN in bytes, at least one (R72). -/
def lenWidth (F : FrameFormat) : Nat := F.lenExtra + 1

/-- The width of CMD in bytes, at least one (R72). -/
def cmdWidth (F : FrameFormat) : Nat := F.cmdExtra + 1

/-- The `w` low bytes of a number, low byte first. -/
def lsbBytes : Nat → Nat → List Byte
  | 0, _ => []
  | w + 1, n => BitVec.ofNat 8 n :: lsbBytes w (n / 256)

/-- The number with these bytes, low byte first. -/
def lsbValue : List Byte → Nat
  | [] => 0
  | b :: bs => b.toNat + 256 * lsbValue bs

/-- The LEN field that holds a count (R72; the order: log entry 9). -/
def writeLen (F : FrameFormat) (n : Nat) : List Byte :=
  match F.lenOrder with
  | .lsbFirst => lsbBytes (lenWidth F) n
  | .msbFirst => (lsbBytes (lenWidth F) n).reverse

/-- The count a LEN field holds (R72; the order: log entry 9). -/
def readLen (F : FrameFormat) (len : List Byte) : Nat :=
  match F.lenOrder with
  | .lsbFirst => lsbValue len
  | .msbFirst => lsbValue len.reverse

/-- The count in LEN: "LEN counts bytes from CMD through the integrity field" (R72, R73). -/
def lenValue (f : IntegrityFunction) (cmd payload : List Byte) : Nat :=
  cmd.length + payload.length + integrityWidth f

/-- The span of a frame: LEN, CMD, payload, in this order (R72). There is none where `cmd` does not fill the CMD
field or the count does not fit the LEN field: no such frame exists (DESIGN CHOICE, log entry 17). -/
def frameSpan (F : FrameFormat) (f : IntegrityFunction) (cmd payload : List Byte) :
    Option (List Byte) :=
  if cmd.length = cmdWidth F ∧ lenValue f cmd payload < 256 ^ lenWidth F then
    some (writeLen F (lenValue f cmd payload) ++ cmd ++ payload)
  else none

/-- An outbound frame: START, span, integrity field, END (R72, R75). -/
def buildFrame (order : WireOrder) (x : CrcWord) (F : FrameFormat) (f : IntegrityFunction)
    (cmd payload : List Byte) (s : State) : Option (List Byte) :=
  match frameSpan F f cmd payload with
  | some span => (integrityField order x f span s).map fun g =>
      [Config.delimiter] ++ span ++ g ++ [Config.delimiter]
  | none => none

/-- The fields of a received frame, and the function its CMD selects (R72, R74). -/
structure FrameParts where
  /-- the function of the frame's command class -/
  function : IntegrityFunction
  /-- the bytes of LEN -/
  len : List Byte
  /-- the bytes of CMD -/
  cmd : List Byte
  /-- the payload -/
  payload : List Byte
  /-- the trailing integrity field -/
  field : List Byte
deriving DecidableEq, Repr

/-- "the span [LEN ... last payload byte]" (R76). -/
def FrameParts.span (p : FrameParts) : List Byte := p.len ++ p.cmd ++ p.payload

/-- The span and the integrity field "out of the received bytes" (R76), by the layout of R72: after START, the
bytes of LEN; of the bytes LEN counts, first CMD, which selects the function (R74), last the field of that
function's width (R73), between them the payload; then END and nothing more. None where the bytes have no such
layout (log entry 17). -/
def takeFrame (F : FrameFormat) (sel : List Byte → IntegrityFunction) (received : List Byte) :
    Option FrameParts :=
  let len := (received.drop 1).take (lenWidth F)
  let rest := received.drop (1 + lenWidth F)
  let cmd := rest.take (cmdWidth F)
  let fixed := cmdWidth F + integrityWidth (sel cmd)
  if received.head? = some Config.delimiter ∧ fixed ≤ readLen F len ∧
      rest.drop (readLen F len) = [Config.delimiter] then
    some
      { function := sel cmd
        len := len
        cmd := cmd
        payload := (rest.drop (cmdWidth F)).take (readLen F len - fixed)
        field := (rest.drop (readLen F len - integrityWidth (sel cmd))).take (integrityWidth (sel cmd)) }
  else none

/-- What the host's check comes to (R76). -/
inductive CheckOutcome where
  /-- the fields compare equal; the host goes on with the frame's parts -/
  | accepted (p : FrameParts)
  /-- "mismatch → ValidationFail, payload discarded, no partial state is surfaced to the caller" -/
  | validationFail
deriving DecidableEq, Repr

/-- The check of received bytes: take span and field out, recompute the function that the received CMD selects
through the block, compare (R76). Bytes without the layout of a frame come to `validationFail`, and without
a run (DEDUCED from R84, log entry 17). -/
def receiveFrame (order : WireOrder) (x : CrcWord) (F : FrameFormat)
    (sel : List Byte → IntegrityFunction) (received : List Byte) (s : State) : Option CheckOutcome :=
  match takeFrame F sel received with
  | some p => (checkField order x p.function p.span p.field s).map fun ok =>
      if ok then .accepted p else .validationFail
  | none => some .validationFail

/-- An outbound frame of this hardware's host, every open parameter from Config (R74, R75). -/
def hostFrame (cmd payload : List Byte) (s : State) : Option (List Byte) :=
  buildFrame Config.crcWireOrder xorout Config.frameFormat (Config.integSel cmd) cmd payload s

/-- The check of received bytes by this hardware's host, every open parameter from Config (R74, R76). -/
def hostReceive (received : List Byte) (s : State) : Option CheckOutcome :=
  receiveFrame Config.crcWireOrder xorout Config.frameFormat Config.integSel received s

end Sys2Proof.Machine
end

