-- ==== Sys2Proof/Machine/Program.lean ====
section
/-! DEFINITION. Programs as 30_encoding.md rule R37 has them: a finite sequence of lines, each a command or a READ of an
output, issued top to bottom; the macros of R38 as such programs; and the spelling of a line. -/

namespace Sys2Proof.Machine

/-- One line of a program (R37). A READ is a host action with no encoding. -/
inductive ProgramLine where
  /-- a command, issued as one command word -/
  | command (i : Instr)
  /-- `READ crc_out` -/
  | readCrcOut
  /-- `READ sum_out` -/
  | readSumOut
deriving DecidableEq, Repr

/-- What a READ gives (R13). -/
inductive ReadValue where
  | crcOut (v : CrcWord)
  | sumOut (v : Byte)
deriving DecidableEq, Repr

/-- Issue a program top to bottom on a block whose XOROUT is `x`: the state it ends in and the values its
READs gave, in order (R37, R78). A reserved command refuses the whole run (R68). -/
def issue (x : CrcWord) : List ProgramLine → State →
    Host.Outcome (State × List ReadValue) Fault Refusal
  | [], s => .next (s, [])
  | .command i :: ls, s =>
    match serve [encode i] s with
    | .next t => issue x ls t
    | .fault f => .fault f
    | .refused r => .refused r
  | .readCrcOut :: ls, s =>
    match issue x ls s with
    | .next (t, vs) => .next (t, .crcOut (crcOutWith x s) :: vs)
    | .fault f => .fault f
    | .refused r => .refused r
  | .readSumOut :: ls, s =>
    match issue x ls s with
    | .next (t, vs) => .next (t, .sumOut (sumOut s) :: vs)
    | .fault f => .fault f
    | .refused r => .refused r

/-- The macro `crc16_genibus(span)` with its READ (R38). -/
def crcProgram (span : List Byte) : List ProgramLine :=
  .command .initC :: span.map (fun d => .command (.byteC d)) ++ [.readCrcOut]

/-- The macro `checksum(span)` with its READ (R38). -/
def sumProgram (span : List Byte) : List ProgramLine :=
  .command .initS :: span.map (fun d => .command (.byteS d)) ++ [.readSumOut]

/-- The macro `both(span)` with its two READs (R38). -/
def bothProgram (span : List Byte) : List ProgramLine :=
  .command .initCS :: span.map (fun d => .command (.byteCS d)) ++ [.readCrcOut, .readSumOut]

/-- A hexadecimal digit. -/
def hexDigit (v : BitVec 4) : String :=
  ["0", "1", "2", "3", "4", "5", "6", "7", "8", "9", "A", "B", "C", "D", "E", "F"].getD v.toNat ""

/-- An operand as R37 spells it, in its hexadecimal spelling (log entry 15). -/
def operandText (d : Byte) : String :=
  " 0x" ++ hexDigit (d.extractLsb' 4 4) ++ hexDigit (d.extractLsb' 0 4)

/-- A command as R37 spells it; the reserved operation has no line (R34). -/
def commandText : Instr → Option String
  | .nop => some "NOP"
  | .init0 => some "INIT.0"
  | .initS => some "INIT.S"
  | .initC => some "INIT.C"
  | .initCS => some "INIT.CS"
  | .byte0 d => some ("BYTE.0" ++ operandText d)
  | .byteS d => some ("BYTE.S" ++ operandText d)
  | .byteC d => some ("BYTE.C" ++ operandText d)
  | .byteCS d => some ("BYTE.CS" ++ operandText d)
  | .reserved _ => none

/-- A line as R37 spells it. -/
def lineText : ProgramLine → Option String
  | .command i => commandText i
  | .readCrcOut => some "READ crc_out"
  | .readSumOut => some "READ sum_out"

end Sys2Proof.Machine
end

