-- ==== Sys2Proof/Machine/Reference.lean ====
section
/-! DEFINITION. The functions the spec defines beside the commands: `SUM8` (40_checksum.md rule R40),
`CRCREG` and `CRC16` (41_crc16.md rule R55), the equivalent forms of `crc_step` (R52), and the whole step
function in one definition over the raw fields (42_control_and_dual.md rule R69). The step of the model does
not call the forms of R52 and R69: they are what it is compared with. -/

namespace Sys2Proof.Machine

/-- `SUM8(s)`, the value of `checksum(s)`: the sum of the bytes as natural numbers, then mod 256 (R40). -/
def sum8 (s : List Byte) : Byte := BitVec.ofNat 8 (s.map BitVec.toNat).sum

/-- `CRCREG(s)`: the CRC register after a span, the fold of `crc_step` from INIT (R55). -/
def crcReg (s : List Byte) : CrcWord := s.foldl crcStep Config.crcInit

/-- `CRC16(s)`, the value of `crc16_genibus(s)`, of a block whose XOROUT is `x` (R55). -/
def crc16With (x : CrcWord) (s : List Byte) : CrcWord := crcReg s ^^^ x

/-- `crc16_genibus(s)` of this hardware (R55, R7). -/
def crc16Genibus (s : List Byte) : CrcWord := crc16With xorout s

/-- One data bit of the bit-serial form (R52 a). -/
def crcBit (c : CrcWord) (b : Bool) : CrcWord :=
  if c.getLsbD 15 ^^ b then (c <<< 1) ^^^ 0x1021 else c <<< 1

/-- The bit-serial form of `crc_step`, bit 7 of the byte first (R52 a). -/
def crcStepSerial (c : CrcWord) (d : Byte) : CrcWord :=
  [7, 6, 5, 4, 3, 2, 1, 0].foldl (fun c k => crcBit c (d.getLsbD k)) c

/-- T[0x00..0x0F] of R52 (c). -/
def crcTable0 : List CrcWord :=
  [0x0000, 0x1021, 0x2042, 0x3063, 0x4084, 0x50A5, 0x60C6, 0x70E7,
    0x8108, 0x9129, 0xA14A, 0xB16B, 0xC18C, 0xD1AD, 0xE1CE, 0xF1EF]

/-- T[0x10..0x1F] of R52 (c). -/
def crcTable1 : List CrcWord :=
  [0x1231, 0x0210, 0x3273, 0x2252, 0x52B5, 0x4294, 0x72F7, 0x62D6,
    0x9339, 0x8318, 0xB37B, 0xA35A, 0xD3BD, 0xC39C, 0xF3FF, 0xE3DE]

/-- T[0x20..0x2F] of R52 (c). -/
def crcTable2 : List CrcWord :=
  [0x2462, 0x3443, 0x0420, 0x1401, 0x64E6, 0x74C7, 0x44A4, 0x5485,
    0xA56A, 0xB54B, 0x8528, 0x9509, 0xE5EE, 0xF5CF, 0xC5AC, 0xD58D]

/-- T[0x30..0x3F] of R52 (c). -/
def crcTable3 : List CrcWord :=
  [0x3653, 0x2672, 0x1611, 0x0630, 0x76D7, 0x66F6, 0x5695, 0x46B4,
    0xB75B, 0xA77A, 0x9719, 0x8738, 0xF7DF, 0xE7FE, 0xD79D, 0xC7BC]

/-- T[0x40..0x4F] of R52 (c). -/
def crcTable4 : List CrcWord :=
  [0x48C4, 0x58E5, 0x6886, 0x78A7, 0x0840, 0x1861, 0x2802, 0x3823,
    0xC9CC, 0xD9ED, 0xE98E, 0xF9AF, 0x8948, 0x9969, 0xA90A, 0xB92B]

/-- T[0x50..0x5F] of R52 (c). -/
def crcTable5 : List CrcWord :=
  [0x5AF5, 0x4AD4, 0x7AB7, 0x6A96, 0x1A71, 0x0A50, 0x3A33, 0x2A12,
    0xDBFD, 0xCBDC, 0xFBBF, 0xEB9E, 0x9B79, 0x8B58, 0xBB3B, 0xAB1A]

/-- T[0x60..0x6F] of R52 (c). -/
def crcTable6 : List CrcWord :=
  [0x6CA6, 0x7C87, 0x4CE4, 0x5CC5, 0x2C22, 0x3C03, 0x0C60, 0x1C41,
    0xEDAE, 0xFD8F, 0xCDEC, 0xDDCD, 0xAD2A, 0xBD0B, 0x8D68, 0x9D49]

/-- T[0x70..0x7F] of R52 (c). -/
def crcTable7 : List CrcWord :=
  [0x7E97, 0x6EB6, 0x5ED5, 0x4EF4, 0x3E13, 0x2E32, 0x1E51, 0x0E70,
    0xFF9F, 0xEFBE, 0xDFDD, 0xCFFC, 0xBF1B, 0xAF3A, 0x9F59, 0x8F78]

/-- T[0x80..0x8F] of R52 (c). -/
def crcTable8 : List CrcWord :=
  [0x9188, 0x81A9, 0xB1CA, 0xA1EB, 0xD10C, 0xC12D, 0xF14E, 0xE16F,
    0x1080, 0x00A1, 0x30C2, 0x20E3, 0x5004, 0x4025, 0x7046, 0x6067]

/-- T[0x90..0x9F] of R52 (c). -/
def crcTable9 : List CrcWord :=
  [0x83B9, 0x9398, 0xA3FB, 0xB3DA, 0xC33D, 0xD31C, 0xE37F, 0xF35E,
    0x02B1, 0x1290, 0x22F3, 0x32D2, 0x4235, 0x5214, 0x6277, 0x7256]

/-- T[0xA0..0xAF] of R52 (c). -/
def crcTableA : List CrcWord :=
  [0xB5EA, 0xA5CB, 0x95A8, 0x8589, 0xF56E, 0xE54F, 0xD52C, 0xC50D,
    0x34E2, 0x24C3, 0x14A0, 0x0481, 0x7466, 0x6447, 0x5424, 0x4405]

/-- T[0xB0..0xBF] of R52 (c). -/
def crcTableB : List CrcWord :=
  [0xA7DB, 0xB7FA, 0x8799, 0x97B8, 0xE75F, 0xF77E, 0xC71D, 0xD73C,
    0x26D3, 0x36F2, 0x0691, 0x16B0, 0x6657, 0x7676, 0x4615, 0x5634]

/-- T[0xC0..0xCF] of R52 (c). -/
def crcTableC : List CrcWord :=
  [0xD94C, 0xC96D, 0xF90E, 0xE92F, 0x99C8, 0x89E9, 0xB98A, 0xA9AB,
    0x5844, 0x4865, 0x7806, 0x6827, 0x18C0, 0x08E1, 0x3882, 0x28A3]

/-- T[0xD0..0xDF] of R52 (c). -/
def crcTableD : List CrcWord :=
  [0xCB7D, 0xDB5C, 0xEB3F, 0xFB1E, 0x8BF9, 0x9BD8, 0xABBB, 0xBB9A,
    0x4A75, 0x5A54, 0x6A37, 0x7A16, 0x0AF1, 0x1AD0, 0x2AB3, 0x3A92]

/-- T[0xE0..0xEF] of R52 (c). -/
def crcTableE : List CrcWord :=
  [0xFD2E, 0xED0F, 0xDD6C, 0xCD4D, 0xBDAA, 0xAD8B, 0x9DE8, 0x8DC9,
    0x7C26, 0x6C07, 0x5C64, 0x4C45, 0x3CA2, 0x2C83, 0x1CE0, 0x0CC1]

/-- T[0xF0..0xFF] of R52 (c). -/
def crcTableF : List CrcWord :=
  [0xEF1F, 0xFF3E, 0xCF5D, 0xDF7C, 0xAF9B, 0xBFBA, 0x8FD9, 0x9FF8,
    0x6E17, 0x7E36, 0x4E55, 0x5E74, 0x2E93, 0x3EB2, 0x0ED1, 0x1EF0]

/-- The table T of R52 (c), as the spec prints it. -/
def crcTable : List CrcWord :=
  crcTable0 ++ crcTable1 ++ crcTable2 ++ crcTable3 ++ crcTable4 ++ crcTable5 ++ crcTable6 ++ crcTable7 ++
    crcTable8 ++ crcTable9 ++ crcTableA ++ crcTableB ++ crcTableC ++ crcTableD ++ crcTableE ++ crcTableF

/-- The table form of `crc_step` (R52 c). -/
def crcStepTable (c : CrcWord) (d : Byte) : CrcWord :=
  (c <<< 8) ^^^ crcTable.getD (c.extractLsb' 8 8 ^^^ d).toNat 0

/-- `next_crc` of R69. -/
def nextCrc (crc : CrcWord) (op : BitVec 2) (uc : Bool) (d : Byte) : CrcWord :=
  if op = 0b01#2 ∧ uc then 0xFFFF
  else if op = 0b10#2 ∧ uc then crcStep crc d
  else crc

/-- `next_sum` of R69. -/
def nextSum (sum : Byte) (op : BitVec 2) (us : Bool) (d : Byte) : Byte :=
  if op = 0b01#2 ∧ us then 0x00
  else if op = 0b10#2 ∧ us then sumStep sum d
  else sum

/-- `step((crc, sum), cw)` of R69 on the pair of registers; none where the word is refused. -/
def blockStep (r : CrcWord × Byte) (cw : CommandWord) : Option (CrcWord × Byte) :=
  if opField cw = 0b11#2 then none
  else some (nextCrc r.1 (opField cw) (ucField cw) (dField cw),
    nextSum r.2 (opField cw) (usField cw) (dField cw))

end Sys2Proof.Machine
end

