-- ==== Sys2Proof/Safety.lean ====
section
/-! DEFINITION. The terms that statements about runs are made in: the state invariant (10_state.md rule
R15), inputs free of reserved words (R34, R86), inputs that leave a unit's span alone (43_host_protocol.md
rule R70), the bytes a unit absorbs from a stream (R14), the stream as one unit sees it (R69), and the bits
of a span in order (R60). -/

namespace Sys2Proof.Machine

/-- The state invariant of R15: registers and outputs are the two functions of the bytes absorbed since the
last initialisation, for every XOROUT. -/
structure HistoryInv (s : State) : Prop where
  /-- `crc = CRCREG(hist_c)` -/
  crc_eq : s.crc = crcReg s.histC
  /-- `sum = SUM8(hist_s)` -/
  sum_eq : s.sum = sum8 s.histS
  /-- `crc_out = CRC16(hist_c)` -/
  crcOut_eq : ∀ x, crcOutWith x s = crc16With x s.histC
  /-- `sum_out = SUM8(hist_s)` -/
  sumOut_eq : sumOut s = sum8 s.histS

/-- The item does not make the block take a reserved word: it resets, or presents nothing, or a word with
another `op` (R34, R82). -/
def PortInput.meaningful (p : PortInput) : Bool :=
  p.reset ||
    match p.cw with
    | some cw => opField cw != 0b11#2
    | none => true

/-- The item neither resets, nor is reserved, nor initialises the CRC unit (the premise of R70 and R62). -/
def PortInput.keepsCrcSpan (p : PortInput) : Bool :=
  !p.reset &&
    match p.cw with
    | some cw => opField cw != 0b11#2 && !(opField cw == 0b01#2 && ucField cw)
    | none => true

/-- The item neither resets, nor is reserved, nor initialises the SUM unit (the premise of R70 and R46). -/
def PortInput.keepsSumSpan (p : PortInput) : Bool :=
  !p.reset &&
    match p.cw with
    | some cw => opField cw != 0b11#2 && !(opField cw == 0b01#2 && usField cw)
    | none => true

/-- The byte an item's BYTE command hands to the CRC unit (R14, R32). -/
def PortInput.crcByte (p : PortInput) : Option Byte :=
  match p.cw with
  | some cw => if opField cw = 0b10#2 ∧ ucField cw then some (dField cw) else none
  | none => none

/-- The byte an item's BYTE command hands to the SUM unit (R14, R32). -/
def PortInput.sumByte (p : PortInput) : Option Byte :=
  match p.cw with
  | some cw => if opField cw = 0b10#2 ∧ usField cw then some (dField cw) else none
  | none => none

/-- A command word as the CRC unit sees it: "every command whose `uc` is 0 replaced by NOP" (R69). -/
def asSeenByCrc (cw : CommandWord) : CommandWord := if ucField cw then cw else encode .nop

/-- A command word as the SUM unit sees it (R69). -/
def asSeenBySum (cw : CommandWord) : CommandWord := if usField cw then cw else encode .nop

/-- Bit `i` of a span in the order the CRC unit takes them: byte `i / 8`, bit 7 first (R23, R60). -/
def spanBit (s : List Byte) (i : Nat) : Bool := (s.getD (i / 8) 0).getLsbD (7 - i % 8)

/-- The bytewise XOR of two spans (R57). -/
def spanXor (s s' : List Byte) : List Byte := List.zipWith (· ^^^ ·) s s'

end Sys2Proof.Machine
end

