-- ==== Sys2Proof/Safety/Polynomial.lean ====
section
/-! DEFINITION. Bit vectors and spans read as polynomials over GF(2), the terms of 41_crc16.md rule R56.
Nothing of the machine depends on this file. -/

namespace Sys2Proof.Machine

open Polynomial

/-- A bit vector as the polynomial whose coefficient of x^i is bit i (R56). -/
noncomputable def polyOf {n : Nat} (v : BitVec n) : (ZMod 2)[X] :=
  ∑ i ∈ Finset.range n, if v.getLsbD i then X ^ i else 0

/-- The message polynomial of a span: bit 7 of the first byte is its highest coefficient, bit 0 of the
last byte its constant one (R56). -/
noncomputable def messagePoly : List Byte → (ZMod 2)[X]
  | [] => 0
  | d :: s => polyOf d * X ^ (8 * s.length) + messagePoly s

/-- The generator G(x) = x^16 + x^12 + x^5 + 1 (R51, R56). -/
noncomputable def generatorPoly : (ZMod 2)[X] := X ^ 16 + X ^ 12 + X ^ 5 + 1

end Sys2Proof.Machine
end

