-- ==== Sys2Proof/Certificates/Slice0/Obligations.lean ====
section
/-! DEFINITION. The statements for the provers, from the numbered rules of spec/. `x` is XOROUT throughout:
a statement that names no value of it holds for every value (00_scope.md rule R7, conflict C1). -/

open Sys2Proof Sys2Proof.Machine

/-! ### Encoding (30_encoding.md) -/

/-- R39 whole: the word of every command of R39, `decode(encode(c)) = c`, and `encode(decode(w)) = w` exactly
for the canonical words of R35 (an INIT word and its canonical word differ in the ignored bits only). R39 speaks of no reserved command, so it is shut out here by
`wellFormed` and by `op ≠ 11`. -/
def Obligations.DecodeOfEncodeIsTheCommand : Prop :=
  (encode .nop = 0x000 ∧
    (∀ uc us, encode (initForm uc us) =
      0x400 + 0x200 * (BitVec.ofBool uc).setWidth 12 + 0x100 * (BitVec.ofBool us).setWidth 12) ∧
    (∀ uc us d, encode (byteForm uc us d) =
      0x800 + 0x200 * (BitVec.ofBool uc).setWidth 12 + 0x100 * (BitVec.ofBool us).setWidth 12 +
        d.setWidth 12)) ∧
  (∀ i : Instr, i.wellFormed = true → decode (encode i) = i) ∧
  (∀ cw : CommandWord, opField cw ≠ 0b11#2 →
    (encode (decode cw) = cw ↔
      (opField cw = 0b00#2 → cw = 0x000) ∧ (opField cw = 0b01#2 → dField cw = 0x00))) ∧
  (∀ cw : CommandWord, opField cw = 0b01#2 → encode (decode cw) = cw &&& 0xF00) ∧
  (encode (.byteC 0x31) = 0xA31 ∧ encode (.byteS 0x31) = 0x931 ∧ encode (.byteCS 0x31) = 0xB31 ∧
    encode (.byteCS 0xFF) = 0xBFF ∧ encode (.byteC 0x7E) = 0xA7E ∧ encode .initCS = 0x700)

/-- R31 whole: each row of the table by its match and mask, that every word selects exactly one row, and the
number of words of each row. -/
def Obligations.DecodeTableRowsPartitionTheWords : Prop :=
  (∀ cw : CommandWord,
    (cw &&& 0xC00 = 0x000 → decode cw = .nop) ∧
    (cw &&& 0xF00 = 0x400 → decode cw = .init0) ∧
    (cw &&& 0xF00 = 0x500 → decode cw = .initS) ∧
    (cw &&& 0xF00 = 0x600 → decode cw = .initC) ∧
    (cw &&& 0xF00 = 0x700 → decode cw = .initCS) ∧
    (cw &&& 0xF00 = 0x800 → decode cw = .byte0 (cw.setWidth 8)) ∧
    (cw &&& 0xF00 = 0x900 → decode cw = .byteS (cw.setWidth 8)) ∧
    (cw &&& 0xF00 = 0xA00 → decode cw = .byteC (cw.setWidth 8)) ∧
    (cw &&& 0xF00 = 0xB00 → decode cw = .byteCS (cw.setWidth 8)) ∧
    (cw &&& 0xC00 = 0xC00 → ∃ low, decode cw = .reserved low)) ∧
  opcodeTable =
    [⟨0x000, 0xC00, 1024⟩, ⟨0x400, 0xF00, 256⟩, ⟨0x500, 0xF00, 256⟩, ⟨0x600, 0xF00, 256⟩,
      ⟨0x700, 0xF00, 256⟩, ⟨0x800, 0xF00, 256⟩, ⟨0x900, 0xF00, 256⟩, ⟨0xA00, 0xF00, 256⟩,
      ⟨0xB00, 0xF00, 256⟩, ⟨0xC00, 0xC00, 1024⟩] ∧
  (∀ cw : CommandWord, opcodeTable.filter (fun r => r.selects cw) = [opcodeRow (decode cw)]) ∧
  (∀ r ∈ opcodeTable,
    ((List.range 4096).countP fun n => r.selects (BitVec.ofNat 12 n)) = r.words)

/-- R30: the four fields by their bit numbers, and that the word is their concatenation. -/
def Obligations.CommandWordFieldsByBitNumber : Prop :=
  ∀ cw : CommandWord,
    (opField cw).toNat = cw.toNat / 1024 ∧
    (ucField cw = true ↔ cw.toNat / 512 % 2 = 1) ∧
    (usField cw = true ↔ cw.toNat / 256 % 2 = 1) ∧
    (dField cw).toNat = cw.toNat % 256 ∧
    cw = opField cw ++ BitVec.ofBool (ucField cw) ++ BitVec.ofBool (usField cw) ++ dField cw

/-- R35: NOP ignores `usel` and `d`, INIT ignores `d`, the no-unit forms execute as NOP whatever `d` is, and
the canonical encodings. -/
def Obligations.IgnoredBitsHaveNoEffect : Prop :=
  (∀ (cw : CommandWord) (s : State), opField cw = 0b00#2 →
    decode cw = .nop ∧ exec (decode cw) s = .next s) ∧
  (∀ cw cw' : CommandWord, opField cw = 0b01#2 → opField cw' = 0b01#2 →
    ucField cw = ucField cw' → usField cw = usField cw' → decode cw = decode cw') ∧
  (∀ (cw : CommandWord) (s : State), (opField cw = 0b01#2 ∨ opField cw = 0b10#2) →
    ucField cw = false → usField cw = false → exec (decode cw) s = .next s) ∧
  (encode .nop = 0x000 ∧ encode .init0 = 0x400 ∧ encode .initS = 0x500 ∧ encode .initC = 0x600 ∧
    encode .initCS = 0x700)

/-- Words written out in 95_test_vectors.md section 8 decode to the commands printed there. -/
def Obligations.WordsOfTheSpecDecodeAsPrinted : Prop :=
  decode 0b000000000000 = .nop ∧ decode 0b001010100101 = .nop ∧ decode 0b001111111111 = .nop ∧
  decode 0b010010101011 = .init0 ∧ decode 0b010100000000 = .initS ∧
  decode 0b011011111111 = .initC ∧ decode 0b011100000000 = .initCS ∧
  decode 0b100000110001 = .byte0 0x31 ∧ decode 0b100100110001 = .byteS 0x31 ∧
  decode 0b101001111110 = .byteC 0x7E ∧ decode 0b101111111111 = .byteCS 0xFF

/-! ### Reserved words (R34, R68, R86) -/

/-- R68: a word with `op = 11` has no next state; it is refused in every state, by exec and as the next word
presented, and the run stays refused. Which ten bits the refusal names is the model's choice (log entry 6) and is left open here. -/
def Obligations.ReservedWordIsRefusedInEveryState : Prop :=
  (∀ (low : BitVec 10) (s : State), ∃ r, exec (.reserved low) s = .refused r) ∧
  (∀ (cw : CommandWord) (s : State), cw &&& 0xC00 = 0xC00 →
    ∃ r, exec (decode cw) s = .refused r) ∧
  (∀ (cw : CommandWord) (rest : List PortInput) (s : State), cw &&& 0xC00 = 0xC00 →
    s.port = PortInput.command cw :: rest →
    ∃ r, step s = .refused r ∧ ∀ k, runSteps (k + 1) s = .refused r)

/-- The model's choice for the reserved command (log entry 6): it keeps the ten bits below `op`, its word is
`11` before them, and the refusal names them. -/
def Obligations.ReservedCommandKeepsItsBits : Prop :=
  ∀ (low : BitVec 10) (s : State),
    encode (.reserved low) = 0b11#2 ++ low ∧ decode (0b11#2 ++ low) = .reserved low ∧
    exec (.reserved low) s = .refused (.reservedWord low)

/-- The "mark for the whole run" of R68: a run that takes a reserved word is refused from there on, however
many steps are asked for. The items before it are meaningful as the model reads it (log entries 2 and 3,
DEDUCED). -/
def Obligations.RunThatTakesAReservedWordIsRefused : Prop :=
  ∀ (ps rest : List PortInput) (cw : CommandWord) (s : State) (k : Nat),
    (∀ p ∈ ps, p.meaningful = true) → opField cw = 0b11#2 →
    s.port = ps ++ PortInput.command cw :: rest → ps.length < k →
    ∃ r, runSteps k s = .refused r

/-- From R86 and R80: there is no fault; a step is refused exactly where the next item is a reserved word
without reset, and in every other state it answers a next state. Two parts are the model's reading and no
rule's: an empty port or an item that presents nothing goes on (log entry 2, DEDUCED), and so does reset
together with a reserved word (log entry 3, DEDUCED). -/
def Obligations.NoFaultAndExactlyReservedWordsAreRefused : Prop :=
  IsEmpty Fault ∧
  (∀ s : State, (∃ r, step s = .refused r) ↔
    ∃ cw rest, s.port = PortInput.command cw :: rest ∧ opField cw = 0b11#2) ∧
  (∀ s : State, (∃ t, step s = .next t) ↔
    ¬ ∃ cw rest, s.port = PortInput.command cw :: rest ∧ opField cw = 0b11#2)

/-! ### Steps, reset and runs -/

/-- A step at a state where a command word is presented without reset is exec of the decoded command, the
item taken from the host's list. -/
def Obligations.StepExecutesTheDecodedCommand : Prop :=
  ∀ (s : State) (cw : CommandWord) (rest : List PortInput),
    s.port = PortInput.command cw :: rest → step s = exec (decode cw) { s with port := rest }

/-- A word of the opcode table placed by `withFetchWord` is the next command the step executes, and nothing
else is changed (the model's own placing, log entry 10). -/
def Obligations.PlacedTableWordIsTheNextCommand : Prop :=
  ∀ (s : State) (nbits w : Nat) (i : Instr), decodeTableWord nbits w = some i →
    step (s.withFetchWord nbits w) = exec i s

/-- From R82 and R90: reset, before any command or between any two, gives the state of R16 whatever the state
before; it wins over a command presented for the same step, any word or none, and the command is lost; the
state is that after INIT.CS. That this holds of a reserved word too is the model's reading (log entry 3,
DEDUCED): R34 and R68 let nothing be proved of a stream that contains such a word. -/
def Obligations.ResetWinsOverACommandInTheSameStep : Prop :=
  ∀ (s : State) (c : Option CommandWord) (rest : List PortInput),
    s.port = ⟨true, c⟩ :: rest →
    step s = .next { crc := 0xFFFF, sum := 0x00, histC := [], histS := [], port := rest } ∧
    exec .initCS { s with port := rest } =
      .next { crc := 0xFFFF, sum := 0x00, histC := [], histS := [], port := rest }

/-- The model's choice for a step in which the host presents nothing (log entry 2): every register and
history stays. -/
def Obligations.StepWithoutACommandKeepsTheRegisters : Prop :=
  (∀ s : State, s.port = [] → step s = .next s) ∧
  (∀ (s : State) (rest : List PortInput), s.port = PortInput.idle :: rest →
    step s = .next { s with port := rest })

/-- R16: the state after reset, the outputs it shows, and that INIT.CS has the same effect. -/
def Obligations.ResetStateAndItsOutputs : Prop :=
  State.reset.crc = 0xFFFF ∧ State.reset.sum = 0x00 ∧
  State.reset.histC = [] ∧ State.reset.histS = [] ∧
  (∀ x, crcOutWith x State.reset = 0xFFFF ^^^ x ∧ crcOutWith x State.reset = crc16With x []) ∧
  sumOut State.reset = 0x00 ∧ sumOut State.reset = sum8 [] ∧
  (∀ s : State, exec .initCS s = .next { State.reset with port := s.port })

/-- From R90 and R16: after reset a unit holds the function of the bytes fed since, with no INIT needed. The word
presented together with reset is lost (R82), a reserved one too by the model's reading (log entry 3,
DEDUCED); that items presenting nothing keep the registers is its reading as well (log entry 2, DEDUCED). -/
def Obligations.SpanAfterResetNeedsNoInit : Prop :=
  ∀ (s : State) (c : Option CommandWord) (ps rest : List PortInput),
    s.port = ⟨true, c⟩ :: ps ++ rest →
    ((∀ p ∈ ps, p.keepsCrcSpan = true) →
      ∃ t, runSteps (ps.length + 1) s = .next t ∧ t.port = rest ∧
        ∀ x, crcOutWith x t = crc16With x (ps.filterMap PortInput.crcByte)) ∧
    ((∀ p ∈ ps, p.keepsSumSpan = true) →
      ∃ t, runSteps (ps.length + 1) s = .next t ∧ t.port = rest ∧
        sumOut t = sum8 (ps.filterMap PortInput.sumByte))

/-- From R78 and R80: the block never halts; whatever meaningful items the host presents, all are taken, one a
step, and the host's later items stand untouched. Beside the meaningful words of the rules, `meaningful`
counts items that present nothing (log entry 2, DEDUCED) and items with reset and any word, a reserved one too
(log entry 3, DEDUCED): that these are taken with a next state is the model's reading. -/
def Obligations.EveryMeaningfulInputIsTaken : Prop :=
  ∀ (ps rest : List PortInput) (s : State),
    (∀ p ∈ ps, p.meaningful = true) → s.port = ps ++ rest →
    ∃ t, runSteps ps.length s = .next t ∧ t.port = rest

/-- R26: the state after k accepted command words is the step function of R69 folded over them in order;
a stream with a reserved word has no such state. -/
def Obligations.StateAfterWordsIsTheFoldOfTheStepFunction : Prop :=
  ∀ (ws : List CommandWord) (s : State),
    match ws.foldlM blockStep (s.crc, s.sum) with
    | some r => ∃ t, serve ws s = .next t ∧ (t.crc, t.sum) = r ∧ t.port = s.port
    | none => ∃ r, serve ws s = .refused r

/-! ### The commands -/

/-- R63: NOP, all 1024 words of its row, changes nothing. -/
def Obligations.NopChangesNothing : Prop :=
  (∀ cw : CommandWord, cw &&& 0xC00 = 0x000 → decode cw = .nop) ∧ encode .nop = 0x000 ∧
  ∀ s : State, exec .nop s = .next s

/-- R66: INIT.0 changes nothing. -/
def Obligations.InitZeroChangesNothing : Prop :=
  (∀ cw : CommandWord, cw &&& 0xF00 = 0x400 → decode cw = .init0) ∧ encode .init0 = 0x400 ∧
  ∀ s : State, exec .init0 s = .next s

/-- R67: BYTE.0 changes nothing for every byte; the byte is in no history. -/
def Obligations.ByteZeroAbsorbsNothing : Prop :=
  (∀ cw : CommandWord, cw &&& 0xF00 = 0x800 → decode cw = .byte0 (cw.setWidth 8)) ∧
  (∀ d : Byte, encode (.byte0 d) = 0x800 + d.setWidth 12) ∧
  ∀ (d : Byte) (s : State), exec (.byte0 d) s = .next s

/-- R42: INIT.S loads 0x00 and empties the SUM history; everything else stays; twice is once; straight
after it `sum_out` is the checksum of the empty span. -/
def Obligations.InitSumInitialisesOnlyTheSumUnit : Prop :=
  (∀ cw : CommandWord, cw &&& 0xF00 = 0x500 → decode cw = .initS) ∧ encode .initS = 0x500 ∧
  ∀ s : State,
    exec .initS s = .next { s with sum := 0x00, histS := [] } ∧
    exec .initS { s with sum := 0x00, histS := [] } = .next { s with sum := 0x00, histS := [] } ∧
    sumOut { s with sum := 0x00, histS := [] } = sum8 []

/-- R43: BYTE.S adds the byte modulo 256 and appends it to the SUM history; everything else stays; the corner
cases and the worked example of the rule. -/
def Obligations.ByteSumAddsModulo256 : Prop :=
  (∀ cw : CommandWord, cw &&& 0xF00 = 0x900 → decode cw = .byteS (cw.setWidth 8)) ∧
  (∀ d : Byte, encode (.byteS d) = 0x900 + d.setWidth 12) ∧
  (∀ (d : Byte) (s : State), exec (.byteS d) s =
    .next { s with sum := BitVec.ofNat 8 (s.sum.toNat + d.toNat), histS := s.histS ++ [d] }) ∧
  (∀ s : State, exec (.byteS 0x00) s = .next { s with histS := s.histS ++ [0x00] }) ∧
  (sumStep 0xFF 0x01 = 0x00 ∧ sumStep 0x80 0x80 = 0x00 ∧ sumStep 0xFF 0xFF = 0xFE ∧
    sumStep 0xDD 0x31 = 0x0E)

/-- R53: INIT.C loads 0xFFFF, whatever XOROUT is, and empties the CRC history; everything else stays; twice
is once; straight after it `crc_out` is 0xFFFF XOR XOROUT, the CRC of the empty span. -/
def Obligations.InitCrcInitialisesOnlyTheCrcUnit : Prop :=
  (∀ cw : CommandWord, cw &&& 0xF00 = 0x600 → decode cw = .initC) ∧ encode .initC = 0x600 ∧
  ∀ s : State,
    exec .initC s = .next { s with crc := 0xFFFF, histC := [] } ∧
    exec .initC { s with crc := 0xFFFF, histC := [] } =
      .next { s with crc := 0xFFFF, histC := [] } ∧
    ∀ x, crcOutWith x { s with crc := 0xFFFF, histC := [] } = 0xFFFF ^^^ x ∧
      crcOutWith x { s with crc := 0xFFFF, histC := [] } = crc16With x []

/-- R54: BYTE.C applies `crc_step` and appends the byte to the CRC history; everything else stays. The corner
cases: a zero byte leaves exactly 0x0000 and 0xF01F unchanged; a byte equal to the register's top byte
moves the low byte up; and the examples of the rule. -/
def Obligations.ByteCrcAppliesCrcStep : Prop :=
  (∀ cw : CommandWord, cw &&& 0xF00 = 0xA00 → decode cw = .byteC (cw.setWidth 8)) ∧
  (∀ d : Byte, encode (.byteC d) = 0xA00 + d.setWidth 12) ∧
  (∀ (d : Byte) (s : State), exec (.byteC d) s =
    .next { s with crc := crcStep s.crc d, histC := s.histC ++ [d] }) ∧
  (∀ c : CrcWord, crcStep c 0x00 = c ↔ c = 0x0000 ∨ c = 0xF01F) ∧
  (∀ c : CrcWord, crcStep c (hiByte c) = c <<< 8) ∧
  (crcStep 0xFFFF 0x31 = 0xC782 ∧ crcStep 0xFFFF 0x00 = 0xE1F0 ∧ crcStep 0xE1F0 0xE1 = 0xF000 ∧
    crcStep 0x29B1 0x29 = 0xB100 ∧ crcStep 0xFFFF 0xFF = 0xFF00)

/-- R64: INIT.CS initialises both units; it is INIT.C and INIT.S in either order, and gives the reset state,
whatever the state before. -/
def Obligations.InitBothIsInitCrcAndInitSum : Prop :=
  (∀ cw : CommandWord, cw &&& 0xF00 = 0x700 → decode cw = .initCS) ∧ encode .initCS = 0x700 ∧
  ∀ s : State, ∃ a b t,
    exec .initCS s = .next t ∧
    t = { s with crc := 0xFFFF, sum := 0x00, histC := [], histS := [] } ∧
    t = { State.reset with port := s.port } ∧
    exec .initC s = .next a ∧ exec .initS a = .next t ∧
    exec .initS s = .next b ∧ exec .initC b = .next t

/-- R65: BYTE.CS updates both units from the state before the step with the same byte; it is BYTE.C and
BYTE.S in either order; the worked example. -/
def Obligations.ByteBothIsByteCrcAndByteSum : Prop :=
  (∀ cw : CommandWord, cw &&& 0xF00 = 0xB00 → decode cw = .byteCS (cw.setWidth 8)) ∧
  (∀ d : Byte, encode (.byteCS d) = 0xB00 + d.setWidth 12) ∧
  (∀ (d : Byte) (s : State), ∃ a b t,
    exec (.byteCS d) s = .next t ∧
    t = { s with
      crc := crcStep s.crc d, sum := BitVec.ofNat 8 (s.sum.toNat + d.toNat),
      histC := s.histC ++ [d], histS := s.histS ++ [d] } ∧
    exec (.byteC d) s = .next a ∧ exec (.byteS d) a = .next t ∧
    exec (.byteS d) s = .next b ∧ exec (.byteC d) b = .next t) ∧
  crcStep 0xFFFF 0x31 = 0xC782 ∧ sumStep 0x00 0x31 = 0x31

/-! ### The two units -/

/-- R69: the new `crc` is a function of the old `crc`, `op`, `uc` and `d` only and the new `sum` of the old
`sum`, `op`, `us` and `d` only, as written out there; and each unit sees the stream with the commands that
do not select it replaced by NOP. -/
def Obligations.BlockIsTheProductOfTwoOneRegisterMachines : Prop :=
  (∀ (cw : CommandWord) (s : State), opField cw = 0b11#2 → ∃ r, exec (decode cw) s = .refused r) ∧
  (∀ (cw : CommandWord) (s : State), opField cw ≠ 0b11#2 → ∃ t, exec (decode cw) s = .next t ∧
    t.crc = nextCrc s.crc (opField cw) (ucField cw) (dField cw) ∧
    t.sum = nextSum s.sum (opField cw) (usField cw) (dField cw)) ∧
  (∀ (ws : List CommandWord) (s : State), (∀ cw ∈ ws, opField cw ≠ 0b11#2) →
    ∃ t u v, serve ws s = .next t ∧
      serve (ws.map asSeenByCrc) s = .next u ∧ u.crc = t.crc ∧
      serve (ws.map asSeenBySum) s = .next v ∧ v.sum = t.sum)

/-- Nothing of the SUM unit reaches the CRC unit and nothing of the CRC unit reaches the SUM unit, over runs
of any length with any inputs: two starts that agree on one unit and on the inputs end agreeing on that
unit (R18: no command writes one unit's register from the other's state). Inputs that present nothing and
reset with any word act as log entries 2 and 3 (DEDUCED) have it. -/
def Obligations.NeitherUnitInfluencesTheOther : Prop :=
  (∀ (k : Nat) (s s' t : State), s.port = s'.port → s.crc = s'.crc → s.histC = s'.histC →
    runSteps k s = .next t →
    ∃ t' : State, runSteps k s' = .next t' ∧ t.port = t'.port ∧ t.crc = t'.crc ∧
      t.histC = t'.histC) ∧
  (∀ (k : Nat) (s s' t : State), s.port = s'.port → s.sum = s'.sum → s.histS = s'.histS →
    runSteps k s = .next t →
    ∃ t' : State, runSteps k s' = .next t' ∧ t.port = t'.port ∧ t.sum = t'.sum ∧
      t.histS = t'.histS)

/-- R10 and R11, the writers: in a step that changes `crc` or its history the block took reset, INIT.C,
INIT.CS, BYTE.C or BYTE.CS; in one that changes `sum` or its history, reset, INIT.S, INIT.CS, BYTE.S or
BYTE.CS. -/
def Obligations.RegistersChangeOnlyByTheirWriters : Prop :=
  ∀ s t : State, step s = .next t →
    (t.crc ≠ s.crc ∨ t.histC ≠ s.histC → ∃ p rest, s.port = p :: rest ∧
      (p.reset = true ∨ ∃ cw, p.cw = some cw ∧
        (decode cw = .initC ∨ decode cw = .initCS ∨
          ∃ d, decode cw = .byteC d ∨ decode cw = .byteCS d))) ∧
    (t.sum ≠ s.sum ∨ t.histS ≠ s.histS → ∃ p rest, s.port = p :: rest ∧
      (p.reset = true ∨ ∃ cw, p.cw = some cw ∧
        (decode cw = .initS ∨ decode cw = .initCS ∨
          ∃ d, decode cw = .byteS d ∨ decode cw = .byteCS d)))

/-- R13: the outputs are functions of the registers, bit by bit, for every XOROUT, and with the document's
value `crc_out` is `crc`. -/
def Obligations.OutputsAreTheRegistersAndXorout : Prop :=
  ∀ s : State,
    (∀ x, crcOutWith x s = s.crc ^^^ x) ∧
    (∀ x i, (crcOutWith x s).getLsbD i = (s.crc.getLsbD i ^^ x.getLsbD i)) ∧
    crcOutWith 0x0000 s = s.crc ∧ crcOutWith 0xFFFF s = ~~~ s.crc ∧
    crcOut s = s.crc ∧ sumOut s = s.sum

/-! ### Arithmetic of the SUM unit (40_checksum.md) -/

/-- R40 and R41: `sum_step` is addition modulo 256, the low 8 bits of the 9-bit sum; folding it over a span
is the sum of the bytes as natural numbers, reduced once. -/
def Obligations.SumStepFoldIsTheSumModulo256 : Prop :=
  (∀ s d : Byte, (sumStep s d).toNat = (s.toNat + d.toNat) % 256 ∧
    sumStep s d = (s.setWidth 9 + d.setWidth 9).setWidth 8) ∧
  (∀ span : List Byte, (sum8 span).toNat = (span.map BitVec.toNat).sum % 256) ∧
  sum8 [] = 0x00 ∧
  (∀ span : List Byte, sum8 span = span.foldl sumStep 0x00) ∧
  (∀ (span : List Byte) (d : Byte), sum8 (span ++ [d]) = sumStep (sum8 span) d)

/-- The laws of `sum_step` in R44. -/
def Obligations.SumStepLaws : Prop :=
  (∀ a : Byte, sumStep a 0x00 = a) ∧
  (∀ a b c : Byte, sumStep (sumStep a b) c = sumStep (sumStep a c) b) ∧
  (∀ a b : Byte, sumStep a b = sumStep b a) ∧
  (∀ d : Byte, Function.Bijective fun s => sumStep s d) ∧
  (∀ s : Byte, Function.Bijective fun d => sumStep s d)

/-- The laws (a) to (f) of `SUM8` in R45. -/
def Obligations.ChecksumLawsOverSpans : Prop :=
  (∀ a b : List Byte, sum8 (a ++ b) = BitVec.ofNat 8 ((sum8 a).toNat + (sum8 b).toNat)) ∧
  (∀ a b : List Byte, a.Perm b → sum8 a = sum8 b) ∧
  (∀ (a b : List Byte) (n : Nat), sum8 (a ++ List.replicate n 0x00 ++ b) = sum8 (a ++ b)) ∧
  ((∀ d : Byte, sum8 (List.replicate 256 d) = 0x00) ∧
    sum8 (List.replicate 255 (0x01 : Byte)) = 0xFF) ∧
  (∀ (a b : List Byte) (d d' : Byte), d ≠ d' → sum8 (a ++ [d] ++ b) ≠ sum8 (a ++ [d'] ++ b)) ∧
  (∀ (a b c : List Byte) (d e k : Byte),
    sum8 (a ++ [d + k] ++ b ++ [e - k] ++ c) = sum8 (a ++ [d] ++ b ++ [e] ++ c))

/-! ### Arithmetic of the CRC unit (41_crc16.md) -/

/-- R51: `crc_step` as the sequence t0 to t8, and the two worked traces. -/
def Obligations.CrcStepIsEightShiftIterations : Prop :=
  (∀ (c : CrcWord) (d : Byte), ∃ t : Nat → CrcWord,
    t 0 = c ^^^ (d.setWidth 16 <<< 8) ∧
    (∀ k < 8, t (k + 1) = if (t k).getLsbD 15 then (t k <<< 1) ^^^ 0x1021 else t k <<< 1) ∧
    crcStep c d = t 8) ∧
  ((List.range 9).map fun k => crcShifts k (0xFFFF ^^^ ((0x31 : Byte).setWidth 16 <<< 8))) =
    [0xCEFF, 0x8DDF, 0x0B9F, 0x173E, 0x2E7C, 0x5CF8, 0xB9F0, 0x63C1, 0xC782] ∧
  ((List.range 9).map fun k => crcShifts k (0xFFFF ^^^ ((0x00 : Byte).setWidth 16 <<< 8))) =
    [0xFFFF, 0xEFDF, 0xCF9F, 0x8F1F, 0x0E1F, 0x1C3E, 0x387C, 0x70F8, 0xE1F0] ∧
  crcStep 0xFFFF 0x31 = 0xC782 ∧ crcStep 0xFFFF 0x00 = 0xE1F0

/-- R52: the bit-serial form and the table form, with the table as printed there, equal `crc_step` on all
inputs; the entries are `crc_step(0x0000, i)`. -/
def Obligations.CrcStepFormsAgree : Prop :=
  (∀ (c : CrcWord) (d : Byte), crcStepSerial c d = crcStep c d) ∧
  (∀ (c : CrcWord) (d : Byte), crcStepTable c d = crcStep c d) ∧
  crcTable.length = 256 ∧
  (∀ i : Byte, crcTable[i.toNat]? = some (crcStep 0x0000 i))

/-- R57: `crc_step` is linear, and the CRCs of two spans of equal length differ by the zero-start fold of their
XOR. -/
def Obligations.CrcStepIsLinear : Prop :=
  (∀ (a b : CrcWord) (d e : Byte), crcStep (a ^^^ b) (d ^^^ e) = crcStep a d ^^^ crcStep b e) ∧
  crcStep 0x0000 0x00 = 0x0000 ∧
  (∀ (c : CrcWord) (d : Byte), crcStep c d = crcStep c 0x00 ^^^ crcStep 0x0000 d) ∧
  (∀ s s' : List Byte, s.length = s'.length →
    crcReg s ^^^ crcReg s' = (spanXor s s').foldl crcStep 0x0000)

/-- R58: the three bijections and the two examples. -/
def Obligations.CrcStepBijections : Prop :=
  (∀ d : Byte, Function.Bijective fun c => crcStep c d) ∧
  (∀ c : CrcWord, Function.Injective fun d => crcStep c d) ∧
  (∀ c0 : CrcWord, Function.Bijective fun p : Byte × Byte => crcStep (crcStep c0 p.1) p.2) ∧
  (∀ v : CrcWord, ∃! p : Byte × Byte, crcReg [p.1, p.2] = v) ∧
  crcReg [0x37, 0x18] = 0x1234 ∧ crcReg [0xFF, 0xFF] = 0x0000

/-- R56: the register after a span is the remainder of the message polynomial, the initial value folded in,
modulo G(x). -/
def Obligations.CrcRegisterIsThePolynomialRemainder : Prop :=
  (∀ s : List Byte,
    polyOf (crcReg s) =
      (polyOf (0xFFFF : CrcWord) * Polynomial.X ^ (8 * s.length) + messagePoly s * Polynomial.X ^ 16)
        %ₘ generatorPoly) ∧
  crcReg [] = 0xFFFF

/-- R55: `CRCREG` by its two equations, `CRC16` for every XOROUT, the function of this hardware, and the check
values on "123456789". -/
def Obligations.CrcOverASpanAndItsCheckValue : Prop :=
  crcReg [] = 0xFFFF ∧
  (∀ (s : List Byte) (d : Byte), crcReg (s ++ [d]) = crcStep (crcReg s) d) ∧
  (∀ s : List Byte, (∀ x, crc16With x s = crcReg s ^^^ x) ∧ crc16With 0x0000 s = crcReg s ∧
    crc16With 0xFFFF s = ~~~ crcReg s ∧ crc16Genibus s = crcReg s) ∧
  crcReg [0x31, 0x32, 0x33, 0x34, 0x35, 0x36, 0x37, 0x38, 0x39] = 0x29B1 ∧
  crc16With 0x0000 [0x31, 0x32, 0x33, 0x34, 0x35, 0x36, 0x37, 0x38, 0x39] = 0x29B1 ∧
  crc16With 0xFFFF [0x31, 0x32, 0x33, 0x34, 0x35, 0x36, 0x37, 0x38, 0x39] = 0xD64E

/-- R59: what the CRC tells apart, and that the CRC of a joined span is not a function of the two CRCs. -/
def Obligations.CrcOfJoinedSpansNeedsTheLength : Prop :=
  (∀ x, crc16With x [] = 0xFFFF ^^^ x) ∧
  (crcReg [0x01, 0x02] = 0x0E7C ∧ crcReg [0x02, 0x01] = 0x6B4C) ∧
  (crcReg [0x31] = 0xC782 ∧ crcReg [0x00, 0x31] = 0x3B7D ∧ crcReg [0x31, 0x00] = 0x2BAB) ∧
  (∀ a b : List Byte, crcReg (a ++ b) = b.foldl crcStep (crcReg a)) ∧
  ¬ ∃ f : CrcWord → CrcWord → CrcWord, ∀ a b : List Byte, crcReg (a ++ b) = f (crcReg a) (crcReg b)

/-- R60: two spans of equal length that differ, all the differing bits within 16 consecutive bits, have
different CRCs, whatever XOROUT is; in particular every change of one byte or of two neighbouring bytes. -/
def Obligations.BurstOfSixteenBitsChangesTheCrc : Prop :=
  (∀ (s s' : List Byte) (k : Nat) (x : CrcWord), s.length = s'.length → s ≠ s' →
    (∀ i, spanBit s i ≠ spanBit s' i → k ≤ i ∧ i < k + 16) →
    crc16With x s ≠ crc16With x s') ∧
  (∀ (a b : List Byte) (d d' : Byte) (x : CrcWord), d ≠ d' →
    crc16With x (a ++ [d] ++ b) ≠ crc16With x (a ++ [d'] ++ b)) ∧
  (∀ (a b : List Byte) (d d' e e' : Byte) (x : CrcWord), (d, e) ≠ (d', e') →
    crc16With x (a ++ [d, e] ++ b) ≠ crc16With x (a ++ [d', e'] ++ b))

/-- R61 (a), (b), (c): absorbing the register's own bytes high first clears it, absorbing the complemented ones
leaves 0x1D0F, and low byte first gives no constant; and its use: for `msb_first` the residue check through
the block, which compares with 0x0000 or 0x1D0F, decides the same as recompute-and-compare of R76. -/
def Obligations.ResidueOfASpanAndItsOwnCrc : Prop :=
  (∀ s : List Byte,
    crcStep (crcReg s) (hiByte (crcReg s)) = crcReg s <<< 8 ∧
    crcReg (s ++ [hiByte (crcReg s), loByte (crcReg s)]) = 0x0000) ∧
  (∀ s : List Byte,
    crcReg (s ++ [hiByte (~~~ crcReg s), loByte (~~~ crcReg s)]) = 0x1D0F ∧
    crc16With 0xFFFF (s ++ [hiByte (~~~ crcReg s), loByte (~~~ crcReg s)]) = 0xE2F0) ∧
  (¬ ∃ v, ∀ s : List Byte, crcReg (s ++ [loByte (crcReg s), hiByte (crcReg s)]) = v) ∧
  (∀ (x : CrcWord) (span : List Byte) (a b : Byte) (s : State),
    checkResidue x span [a, b] s = checkField .msbFirst x .crc16 span [a, b] s) ∧
  (∀ (span : List Byte) (a b : Byte) (s : State),
    checkResidue 0x0000 span [a, b] s = some (decide (crcReg (span ++ [a, b]) = 0x0000)) ∧
    checkResidue 0xFFFF span [a, b] s = some (decide (crcReg (span ++ [a, b]) = 0x1D0F)))

/-! ### The state invariant (10_state.md rule R15) -/

/-- R15: every step keeps the invariant, from any state that has it, so it holds in every state that a run
from reset reaches, whatever the host presents. -/
def Obligations.EveryStepKeepsTheHistoryInvariant : Prop :=
  (∀ s t : State, HistoryInv s → step s = .next t → HistoryInv t) ∧
  (∀ (ps : List PortInput) (k : Nat) (t : State),
    runSteps k { State.reset with port := ps } = .next t → HistoryInv t)

/-- The invariant of R15 holds right after reset. -/
def Obligations.ResetHasTheHistoryInvariant : Prop :=
  HistoryInv State.reset

/-- R17: every pair of register values is a legal state, in which every meaningful command completes, and
every pair is reached from reset by some stream of command words. -/
def Obligations.EveryRegisterPairIsReachable : Prop :=
  (∀ (i : Instr) (s : State), i.wellFormed = true → ∃ t, exec i s = .next t) ∧
  (∀ (c : CrcWord) (v : Byte), ∃ (ws : List CommandWord) (t : State),
    serve ws State.reset = .next t ∧ t.crc = c ∧ t.sum = v)

/-! ### Spans through the block (43_host_protocol.md, 70_reset_and_hazards.md) -/

/-- From R62 and R70 for the CRC unit: after an INIT of the unit, with other commands, idle steps and commands for
the other unit mixed in freely, `crc_out` is the CRC of the bytes handed to the unit since, whatever the
state before. That a step in which nothing is presented keeps the registers is the model's reading (log
entry 2, DEDUCED). -/
def Obligations.CrcUnitComputesTheCrcOfItsBytes : Prop :=
  ∀ (s : State) (cw : CommandWord) (ps rest : List PortInput),
    (decode cw = .initC ∨ decode cw = .initCS) →
    s.port = PortInput.command cw :: ps ++ rest → (∀ p ∈ ps, p.keepsCrcSpan = true) →
    ∃ t, runSteps (ps.length + 1) s = .next t ∧ t.port = rest ∧
      t.histC = ps.filterMap PortInput.crcByte ∧
      ∀ x, crcOutWith x t = crc16With x (ps.filterMap PortInput.crcByte)

/-- From R46 and R70: the same for the SUM unit and the checksum (log entry 2 as there). -/
def Obligations.SumUnitComputesTheChecksumOfItsBytes : Prop :=
  ∀ (s : State) (cw : CommandWord) (ps rest : List PortInput),
    (decode cw = .initS ∨ decode cw = .initCS) →
    s.port = PortInput.command cw :: ps ++ rest → (∀ p ∈ ps, p.keepsSumSpan = true) →
    ∃ t, runSteps (ps.length + 1) s = .next t ∧ t.port = rest ∧
      t.histS = ps.filterMap PortInput.sumByte ∧
      sumOut t = sum8 (ps.filterMap PortInput.sumByte)

/-- R38: the words of the three macros, and that each call returns the document's function of the span for
every span, the empty one too, from every state. -/
def Obligations.MacroCallsReturnTheFunctions : Prop :=
  ∀ span : List Byte,
    crcMacro span = 0x600 :: span.map (fun d => 0xA00 + d.setWidth 12) ∧
    sumMacro span = 0x500 :: span.map (fun d => 0x900 + d.setWidth 12) ∧
    bothMacro span = 0x700 :: span.map (fun d => 0xB00 + d.setWidth 12) ∧
    (crcMacro span).length = span.length + 1 ∧ (sumMacro span).length = span.length + 1 ∧
    (bothMacro span).length = span.length + 1 ∧
    ∀ s : State,
      (∀ x, callCrc16 x span s = some (crc16With x span)) ∧
      callChecksum span s = some (sum8 span) ∧
      (∀ x, callBoth x span s = some (crc16With x span, sum8 span))

/-- R37 and R38: a macro issued line by line, READs included, ends in a next state from every state and reads the
document's functions; READs change nothing, so two in a row read one state. -/
def Obligations.MacroProgramsReadTheFunctions : Prop :=
  ∀ (x : CrcWord) (span : List Byte) (s : State),
    (∃ t, issue x (crcProgram span) s = .next (t, [.crcOut (crc16With x span)]) ∧
      t = { s with crc := crcReg span, histC := span }) ∧
    (∃ t, issue x (sumProgram span) s = .next (t, [.sumOut (sum8 span)]) ∧
      t = { s with sum := sum8 span, histS := span }) ∧
    (∃ t, issue x (bothProgram span) s =
        .next (t, [.crcOut (crc16With x span), .sumOut (sum8 span)]) ∧
      t = { s with crc := crcReg span, sum := sum8 span, histC := span, histS := span })

/-- R92: BYTE commands without an INIT continue the old span; the numbers of the rule. -/
def Obligations.MissingInitContinuesTheOldSpan : Prop :=
  (∀ (ds : List Byte) (s : State), HistoryInv s → ∃ t,
    serve (ds.map fun d => encode (.byteCS d)) s = .next t ∧
    t.crc = crcReg (s.histC ++ ds) ∧ t.sum = sum8 (s.histS ++ ds)) ∧
  (∀ s : State, ∃ a b c,
    serve [0x700, 0xB31, 0xB32] s = .next a ∧ a.crc = 0x3DBA ∧ a.sum = 0x63 ∧
    serve [0xB33] a = .next b ∧ b.crc = 0x5BCE ∧ b.sum = 0x96 ∧
    serve [0x700, 0xB33] a = .next c ∧ c.crc = 0xE7C0 ∧ c.sum = 0x33)

/-- R94: a read before the last byte returns the value of the part of the span fed so far. -/
def Obligations.EarlyReadShowsTheBytesFedSoFar : Prop :=
  ∀ (span : List Byte) (s : State) (k : Nat), k ≤ span.length →
    (∀ x, readAfter (crcOutWith x) (runSteps (k + 1) (present (crcMacro span) s)) =
      some (crc16With x (span.take k))) ∧
    readAfter sumOut (runSteps (k + 1) (present (sumMacro span) s)) =
      some (sum8 (span.take k))

/-! ### Frames (43_host_protocol.md) -/

/-- R73 and R75, over the span of R72: the frame the host builds through the block, from every state, for
every width of LEN and CMD (R72 leaves them open), CMD filling its field and the count fitting LEN; a
one-byte LEN is the count, which is m + 2 for a checksum and m + 3 for a CRC where CMD is one byte; the span is
never empty; and the worked example of R75. What a wider LEN holds: `BuiltFrameIsTakenApartAndAccepted`. -/
def Obligations.OutboundFrameCarriesTheFunctionOfItsSpan : Prop :=
  (∀ F : FrameFormat, 0 < lenWidth F ∧ 0 < cmdWidth F) ∧
  (∀ (order : WireOrder) (x : CrcWord) (F : FrameFormat) (cmd payload : List Byte) (s : State),
    cmd.length = cmdWidth F →
    (cmd.length + payload.length + 1 < 256 ^ lenWidth F → ∃ len span,
      len.length = lenWidth F ∧
      (lenWidth F = 1 → len = [BitVec.ofNat 8 (cmd.length + payload.length + 1)]) ∧
      span = len ++ cmd ++ payload ∧ span.length = lenWidth F + cmdWidth F + payload.length ∧
      span ≠ [] ∧ frameSpan F .checksum cmd payload = some span ∧
      buildFrame order x F .checksum cmd payload s =
        some ([0x7E] ++ span ++ [sum8 span] ++ [0x7E])) ∧
    (cmd.length + payload.length + 2 < 256 ^ lenWidth F → ∃ len span,
      len.length = lenWidth F ∧
      (lenWidth F = 1 → len = [BitVec.ofNat 8 (cmd.length + payload.length + 2)]) ∧
      span = len ++ cmd ++ payload ∧ span.length = lenWidth F + cmdWidth F + payload.length ∧
      span ≠ [] ∧ frameSpan F .crc16 cmd payload = some span ∧
      buildFrame order x F .crc16 cmd payload s =
        some ([0x7E] ++ span ++ placeCrc order (crc16With x span) ++ [0x7E]))) ∧
  (∀ v : CrcWord, placeCrc .msbFirst v = [hiByte v, loByte v] ∧
    placeCrc .lsbFirst v = [loByte v, hiByte v]) ∧
  (∀ s : State,
    buildFrame .msbFirst 0x0000 ⟨0, 0, .msbFirst⟩ .crc16 [0x39] [0xDE, 0xAD] s =
      some [0x7E, 0x05, 0x39, 0xDE, 0xAD, 0x31, 0xDE, 0x7E] ∧
    buildFrame .msbFirst 0x0000 ⟨0, 0, .msbFirst⟩ .checksum [0x39] [0xDE, 0xAD] s =
      some [0x7E, 0x04, 0x39, 0xDE, 0xAD, 0xC8, 0x7E])

/-- From R76: received bytes come apart into fields exactly where they are START, LEN, CMD, payload, a field of the
width of the function that this CMD selects, and END, with LEN holding the count of R72; and the frame is
accepted exactly where that field is the function's value of that span; else it comes to ValidationFail. How
a LEN wider than one byte holds its count is a parameter of the model (log entry 9), and that bytes without
the layout are no frame is the model's reading (log entry 17). -/
def Obligations.ReceivedFrameIsAcceptedExactlyWithTheFieldOfItsSpan : Prop :=
  ∀ (F : FrameFormat) (sel : List Byte → IntegrityFunction) (received : List Byte),
    (∀ p : FrameParts, takeFrame F sel received = some p ↔
      received = [0x7E] ++ p.len ++ p.cmd ++ p.payload ++ p.field ++ [0x7E] ∧
      p.len.length = lenWidth F ∧ p.cmd.length = cmdWidth F ∧ p.function = sel p.cmd ∧
      p.field.length = integrityWidth p.function ∧
      readLen F p.len = p.cmd.length + p.payload.length + p.field.length) ∧
    (∀ (order : WireOrder) (x : CrcWord) (s : State),
      (∀ p : FrameParts, receiveFrame order x F sel received s = some (.accepted p) ↔
        takeFrame F sel received = some p ∧
        match p.function with
        | .checksum => p.field = [sum8 (p.len ++ p.cmd ++ p.payload)]
        | .crc16 => p.field = placeCrc order (crc16With x (p.len ++ p.cmd ++ p.payload))) ∧
      (receiveFrame order x F sel received s = some .validationFail ∨
        ∃ p, receiveFrame order x F sel received s = some (.accepted p)))

/-- From R75, R76 and the round trip of R77: there is a frame exactly where CMD fills its field and the count fits
LEN (the model's choice, log entry 17); it comes apart into the CMD and payload it was built from, its LEN
holds the count (log entry 9), the span checked is the span built, and the frame is accepted, whatever
states the two calls start from. -/
def Obligations.BuiltFrameIsTakenApartAndAccepted : Prop :=
  ∀ (order : WireOrder) (x : CrcWord) (F : FrameFormat) (sel : List Byte → IntegrityFunction)
      (cmd payload : List Byte) (s s' : State),
    ((∃ frame, buildFrame order x F (sel cmd) cmd payload s = some frame) ↔
      cmd.length = cmdWidth F ∧
        cmd.length + payload.length + integrityWidth (sel cmd) < 256 ^ lenWidth F) ∧
    (∀ frame, buildFrame order x F (sel cmd) cmd payload s = some frame → ∃ p,
      takeFrame F sel frame = some p ∧ p.function = sel cmd ∧ p.cmd = cmd ∧ p.payload = payload ∧
      readLen F p.len = cmd.length + payload.length + integrityWidth (sel cmd) ∧
      frameSpan F (sel cmd) cmd payload = some p.span ∧
      receiveFrame order x F sel frame s' = some (.accepted p))

/-- From R77: a built frame with another field in place of its own, with one byte of its payload changed, or without
its last byte comes to ValidationFail. That the missing END is noticed is the model's reading (log entry
17); the rule leaves it to the decoder's other steps. -/
def Obligations.DamagedFrameIsRejected : Prop :=
  ∀ (order : WireOrder) (x : CrcWord) (F : FrameFormat) (sel : List Byte → IntegrityFunction)
      (cmd payload frame : List Byte) (s s' : State),
    buildFrame order x F (sel cmd) cmd payload s = some frame →
    ∃ len field, frame = [0x7E] ++ len ++ cmd ++ payload ++ field ++ [0x7E] ∧
      field.length = integrityWidth (sel cmd) ∧
      (∀ other, other.length = field.length → other ≠ field →
        receiveFrame order x F sel ([0x7E] ++ len ++ cmd ++ payload ++ other ++ [0x7E]) s' =
          some .validationFail) ∧
      (∀ (a b : List Byte) (d d' : Byte), payload = a ++ [d] ++ b → d ≠ d' →
        receiveFrame order x F sel ([0x7E] ++ len ++ cmd ++ (a ++ [d'] ++ b) ++ field ++ [0x7E]) s' =
          some .validationFail) ∧
      receiveFrame order x F sel ([0x7E] ++ len ++ cmd ++ payload ++ field) s' = some .validationFail

/-- The model's choice for a received field of another width than the function's (log entry 16): the check
of R76 and the residue check of R61 both reject it. -/
def Obligations.FieldOfAnotherWidthIsRejected : Prop :=
  ∀ (order : WireOrder) (x : CrcWord) (f : IntegrityFunction) (span field : List Byte) (s : State),
    (field.length ≠ integrityWidth f → checkField order x f span field s = some false) ∧
    (field.length ≠ 2 → checkResidue x span field s = some false)

/-- From R76: the check recomputes the function over the span and compares: it accepts exactly the field that the
span's value makes, for either function, either wire order, every XOROUT and every state. A field of another
width than the function's is not accepted by the model's choice (log entry 16). -/
def Obligations.InboundCheckAcceptsExactlyTheRightField : Prop :=
  ∀ (order : WireOrder) (x : CrcWord) (span field : List Byte) (s : State),
    (checkField order x .checksum span field s = some true ↔ field = [sum8 span]) ∧
    (checkField order x .crc16 span field s = some true ↔
      field = placeCrc order (crc16With x span)) ∧
    ∀ f, ∃ b, checkField order x f span field s = some b

/-- R77, as far as it rests on the block: the right field is accepted; a changed field and the right field of
a span with one byte changed are rejected. That a field of another width is rejected is the model's choice
(log entry 16). -/
def Obligations.CorruptedFrameIsRejected : Prop :=
  ∀ (order : WireOrder) (x : CrcWord) (f : IntegrityFunction) (span : List Byte) (s s' : State),
    ∃ field, integrityField order x f span s = some field ∧
      checkField order x f span field s' = some true ∧
      (∀ other, other ≠ field → checkField order x f span other s' = some false) ∧
      (∀ (a b : List Byte) (d d' : Byte), span = a ++ [d] ++ b → d ≠ d' →
        checkField order x f (a ++ [d'] ++ b) field s' = some false)
end

