-- ==== Sys2Proof/Laws/Decode.lean ====
section
/-! SUPPORT. The fields of a word built by `formatC` are the fields it was built from (30_encoding.md rule
R30), each checked on the 4096 choices of the four fields. -/

namespace Sys2Proof

@[simp] theorem opField_formatC (op : BitVec 2) (uc us : Bool) (d : Byte) :
    opField (formatC op uc us d) = op := by
  revert op uc us d
  decide

@[simp] theorem ucField_formatC (op : BitVec 2) (uc us : Bool) (d : Byte) :
    ucField (formatC op uc us d) = uc := by
  revert op uc us d
  decide

@[simp] theorem usField_formatC (op : BitVec 2) (uc us : Bool) (d : Byte) :
    usField (formatC op uc us d) = us := by
  revert op uc us d
  decide

@[simp] theorem dField_formatC (op : BitVec 2) (uc us : Bool) (d : Byte) :
    dField (formatC op uc us d) = d := by
  revert op uc us d
  decide

end Sys2Proof
end

