-- ==== Sys2Proof/Laws/Frame.lean ====
section
/-! SUPPORT. A count and the LEN field that holds it determine each other (43_host_protocol.md rule R72), and what
forming a span answers, said once. -/

namespace Sys2Proof.Machine

@[simp] theorem lsbBytes_length (w n : Nat) : (lsbBytes w n).length = w := by
  induction w generalizing n with
  | zero => rfl
  | succ w ih => simp [lsbBytes, ih]

theorem lsbValue_lsbBytes (w n : Nat) (h : n < 256 ^ w) : lsbValue (lsbBytes w n) = n := by
  induction w generalizing n with
  | zero => simp at h; simp [lsbBytes, lsbValue, h]
  | succ w ih =>
    have hd : n / 256 < 256 ^ w := Nat.div_lt_of_lt_mul (by rwa [← Nat.pow_succ'])
    simp only [lsbBytes, lsbValue, ih _ hd, BitVec.toNat_ofNat]
    omega

theorem lsbBytes_lsbValue (bs : List Byte) : lsbBytes bs.length (lsbValue bs) = bs := by
  induction bs with
  | nil => rfl
  | cons b bs ih =>
    have hb := b.isLt
    have hq : (b.toNat + 256 * lsbValue bs) / 256 = lsbValue bs := by omega
    simp only [List.length_cons, lsbBytes, lsbValue, hq, ih, List.cons.injEq, and_true]
    apply BitVec.eq_of_toNat_eq
    simp only [BitVec.toNat_ofNat]
    omega

theorem lsbValue_lt (bs : List Byte) : lsbValue bs < 256 ^ bs.length := by
  induction bs with
  | nil => simp [lsbValue]
  | cons b bs ih =>
    have hb := b.isLt
    simp only [lsbValue, List.length_cons, Nat.pow_succ]
    omega

@[simp] theorem writeLen_length (F : FrameFormat) (n : Nat) : (writeLen F n).length = lenWidth F := by
  unfold writeLen
  split <;> simp

theorem readLen_writeLen (F : FrameFormat) (n : Nat) (h : n < 256 ^ lenWidth F) :
    readLen F (writeLen F n) = n := by
  unfold readLen writeLen
  split <;> simp [lsbValue_lsbBytes _ _ h]

theorem writeLen_readLen (F : FrameFormat) (len : List Byte) (h : len.length = lenWidth F) :
    writeLen F (readLen F len) = len := by
  unfold readLen writeLen
  split
  · rw [← h, lsbBytes_lsbValue]
  · rw [← h, ← List.length_reverse, lsbBytes_lsbValue, List.reverse_reverse]

theorem readLen_lt (F : FrameFormat) (len : List Byte) (h : len.length = lenWidth F) :
    readLen F len < 256 ^ lenWidth F := by
  rw [← h]
  unfold readLen
  split
  · exact lsbValue_lt len
  · simpa using lsbValue_lt len.reverse

/-- If there is a span, CMD fills its field, the count fits LEN, and the span is LEN, CMD, payload (R72). -/
theorem frameSpan_eq_some {F : FrameFormat} {f : IntegrityFunction} {cmd payload span : List Byte}
    (h : frameSpan F f cmd payload = some span) :
    cmd.length = cmdWidth F ∧ lenValue f cmd payload < 256 ^ lenWidth F ∧
      span = writeLen F (lenValue f cmd payload) ++ cmd ++ payload := by
  unfold frameSpan at h
  split at h
  · next hc => exact ⟨hc.1, hc.2, (Option.some.inj h).symm⟩
  · cases h

end Sys2Proof.Machine
end

