-- ==== Sys2Proof/Laws/HostSide.lean ====
section
/-! SUPPORT. A CRC value and its two bytes determine each other (20_memory.md rule R24). -/

namespace Sys2Proof.Machine

@[simp] theorem hiByte_joinBytes (hi lo : Byte) : hiByte (joinBytes hi lo) = hi := by
  apply BitVec.eq_of_toNat_eq
  simp only [hiByte, joinBytes, BitVec.extractLsb'_toNat, BitVec.toNat_append]
  rw [Nat.shiftRight_or_distrib, Nat.shiftLeft_shiftRight, Nat.shiftRight_eq_zero lo.toNat 8 lo.isLt]
  simpa using hi.isLt

@[simp] theorem loByte_joinBytes (hi lo : Byte) : loByte (joinBytes hi lo) = lo := by
  apply BitVec.eq_of_toNat_eq
  simp only [loByte, joinBytes, BitVec.extractLsb'_toNat, BitVec.toNat_append, Nat.shiftRight_zero]
  rw [Nat.or_mod_two_pow, Nat.shiftLeft_eq, Nat.mul_mod_left]
  simpa using lo.isLt

@[simp] theorem joinBytes_hiByte_loByte (v : CrcWord) : joinBytes (hiByte v) (loByte v) = v := by
  have h := BitVec.extractLsb'_append_extractLsb'_eq_extractLsb' (w := 16) (start₁ := 0) (len₁ := 8)
    (start₂ := 8) (len₂ := 8) (x := v) rfl
  simpa [joinBytes, hiByte, loByte] using h

end Sys2Proof.Machine
end

