-- ==== Sys2Proof/Laws/PerInstr.lean ====
section
/-! SUPPORT. A statement made of every command, one lemma per constructor: the command's word lies in its own
row of the decode table and has zeros in the bits the row ignores (30_encoding.md rules R31, R35). -/

namespace Sys2Proof.Laws.WordInOwnRow

/-- The word of the command selects the command's row of R31, and a command that ignores bits leaves them
zero. -/
def Statement (i : Instr) : Prop :=
  (opcodeRow i).selects (encode i) = true ∧
    match i with
    | .nop => encode i = 0x000
    | .init0 | .initS | .initC | .initCS => dField (encode i) = 0x00
    | .byte0 d | .byteS d | .byteC d | .byteCS d => dField (encode i) = d
    | .reserved low => lowField (encode i) = low

theorem nop : Statement .nop := by unfold Statement; decide
theorem init0 : Statement .init0 := by unfold Statement; decide
theorem initS : Statement .initS := by unfold Statement; decide
theorem initC : Statement .initC := by unfold Statement; decide
theorem initCS : Statement .initCS := by unfold Statement; decide
theorem byte0 (d : Byte) : Statement (.byte0 d) := by unfold Statement; revert d; decide
theorem byteS (d : Byte) : Statement (.byteS d) := by unfold Statement; revert d; decide
theorem byteC (d : Byte) : Statement (.byteC d) := by unfold Statement; revert d; decide
theorem byteCS (d : Byte) : Statement (.byteCS d) := by unfold Statement; revert d; decide
theorem reserved (low : BitVec 10) : Statement (.reserved low) := by
  unfold Statement; revert low; decide

end Sys2Proof.Laws.WordInOwnRow
end

