-- ==== Sys2Proof/Laws/Reference.lean ====
section
/-! SUPPORT. The recursion equations of the two functions over a span, as the spec writes them (R41, R55). -/

namespace Sys2Proof.Machine

@[simp] theorem crcReg_nil : crcReg [] = 0xFFFF := rfl

theorem crcReg_append (a b : List Byte) : crcReg (a ++ b) = b.foldl crcStep (crcReg a) :=
  List.foldl_append

theorem crcReg_concat (s : List Byte) (d : Byte) : crcReg (s ++ [d]) = crcStep (crcReg s) d :=
  crcReg_append s [d]

@[simp] theorem sum8_nil : sum8 [] = 0x00 := rfl

/-- The sum of a span as a natural number, before it is taken modulo 256 (R40). -/
theorem sum8_toNat (s : List Byte) : (sum8 s).toNat = (s.map BitVec.toNat).sum % 256 := by
  simp [sum8]

end Sys2Proof.Machine
end

