-- ==== Sys2Proof/Laws/State.lean ====
section
/-! SUPPORT. One lemma per field per named update, and the whole effect of each shared operation, so that no
proof unfolds a record update. -/

namespace Sys2Proof.Machine

@[simp] theorem initCrc_crc (s : State) : (initCrc s).crc = 0xFFFF := rfl
@[simp] theorem initCrc_sum (s : State) : (initCrc s).sum = s.sum := rfl
@[simp] theorem initCrc_histC (s : State) : (initCrc s).histC = [] := rfl
@[simp] theorem initCrc_histS (s : State) : (initCrc s).histS = s.histS := rfl
@[simp] theorem initCrc_port (s : State) : (initCrc s).port = s.port := rfl

@[simp] theorem initSum_crc (s : State) : (initSum s).crc = s.crc := rfl
@[simp] theorem initSum_sum (s : State) : (initSum s).sum = 0x00 := rfl
@[simp] theorem initSum_histC (s : State) : (initSum s).histC = s.histC := rfl
@[simp] theorem initSum_histS (s : State) : (initSum s).histS = [] := rfl
@[simp] theorem initSum_port (s : State) : (initSum s).port = s.port := rfl

@[simp] theorem absorbCrc_crc (d : Byte) (s : State) : (absorbCrc d s).crc = crcStep s.crc d := rfl
@[simp] theorem absorbCrc_sum (d : Byte) (s : State) : (absorbCrc d s).sum = s.sum := rfl
@[simp] theorem absorbCrc_histC (d : Byte) (s : State) :
    (absorbCrc d s).histC = s.histC ++ [d] := rfl
@[simp] theorem absorbCrc_histS (d : Byte) (s : State) : (absorbCrc d s).histS = s.histS := rfl
@[simp] theorem absorbCrc_port (d : Byte) (s : State) : (absorbCrc d s).port = s.port := rfl

@[simp] theorem absorbSum_crc (d : Byte) (s : State) : (absorbSum d s).crc = s.crc := rfl
@[simp] theorem absorbSum_sum (d : Byte) (s : State) : (absorbSum d s).sum = sumStep s.sum d := rfl
@[simp] theorem absorbSum_histC (d : Byte) (s : State) : (absorbSum d s).histC = s.histC := rfl
@[simp] theorem absorbSum_histS (d : Byte) (s : State) :
    (absorbSum d s).histS = s.histS ++ [d] := rfl
@[simp] theorem absorbSum_port (d : Byte) (s : State) : (absorbSum d s).port = s.port := rfl

@[simp] theorem applyReset_crc (s : State) : (applyReset s).crc = 0xFFFF := rfl
@[simp] theorem applyReset_sum (s : State) : (applyReset s).sum = 0x00 := rfl
@[simp] theorem applyReset_histC (s : State) : (applyReset s).histC = [] := rfl
@[simp] theorem applyReset_histS (s : State) : (applyReset s).histS = [] := rfl
@[simp] theorem applyReset_port (s : State) : (applyReset s).port = s.port := rfl

@[simp] theorem present_crc (ws : List CommandWord) (s : State) : (present ws s).crc = s.crc := rfl
@[simp] theorem present_sum (ws : List CommandWord) (s : State) : (present ws s).sum = s.sum := rfl
@[simp] theorem present_histC (ws : List CommandWord) (s : State) :
    (present ws s).histC = s.histC := rfl
@[simp] theorem present_histS (ws : List CommandWord) (s : State) :
    (present ws s).histS = s.histS := rfl
@[simp] theorem present_port (ws : List CommandWord) (s : State) :
    (present ws s).port = ws.map PortInput.command ++ s.port := rfl

/-- Two states with the same five fields are the same state. -/
theorem state_ext {s t : State} (hc : s.crc = t.crc) (hs : s.sum = t.sum)
    (hhc : s.histC = t.histC) (hhs : s.histS = t.histS) (hp : s.port = t.port) : s = t := by
  cases s
  cases t
  simp_all

end Sys2Proof.Machine
end

