-- ==== Sys2Proof/Laws/Step.lean ====
section
/-! SUPPORT. What a command, an accepted input and a step can do, said once: if one of them answers a next
state, then one of the listed cases holds. Invariants are derived from these, not by unfolding `step`. -/

namespace Sys2Proof.Machine

/-- All a command can do when it answers a next state: nothing, initialise or absorb in one unit or in both
(R18). -/
theorem exec_next_cases {i : Instr} {s t : State} (h : exec i s = .next t) :
    ((i = .nop ∨ i = .init0 ∨ ∃ d, i = .byte0 d) ∧ t = s) ∨
    (i = .initS ∧ t = initSum s) ∨
    (i = .initC ∧ t = initCrc s) ∨
    (i = .initCS ∧ t = initSum (initCrc s)) ∨
    (∃ d, i = .byteS d ∧ t = absorbSum d s) ∨
    (∃ d, i = .byteC d ∧ t = absorbCrc d s) ∨
    (∃ d, i = .byteCS d ∧ t = absorbSum d (absorbCrc d s)) := by
  cases i <;> cases h
  case nop => exact .inl ⟨.inl rfl, rfl⟩
  case init0 => exact .inl ⟨.inr (.inl rfl), rfl⟩
  case initS => exact .inr (.inl ⟨rfl, rfl⟩)
  case initC => exact .inr (.inr (.inl ⟨rfl, rfl⟩))
  case initCS => exact .inr (.inr (.inr (.inl ⟨rfl, rfl⟩)))
  case byte0 d => exact .inl ⟨.inr (.inr ⟨d, rfl⟩), rfl⟩
  case byteS d => exact .inr (.inr (.inr (.inr (.inl ⟨d, rfl, rfl⟩))))
  case byteC d => exact .inr (.inr (.inr (.inr (.inr (.inl ⟨d, rfl, rfl⟩)))))
  case byteCS d => exact .inr (.inr (.inr (.inr (.inr (.inr ⟨d, rfl, rfl⟩)))))

/-- All an accepted input can do when it answers a next state: reset, execute the presented word, or nothing
(R82). -/
theorem accept_next_cases {p : PortInput} {s t : State} (h : accept p s = .next t) :
    (p.reset = true ∧ t = applyReset s) ∨
    (p.reset = false ∧ p.cw = none ∧ t = s) ∨
    (p.reset = false ∧ ∃ cw, p.cw = some cw ∧ exec (decode cw) s = .next t) := by
  obtain ⟨r, c⟩ := p
  cases r
  · cases c with
    | none => cases h; exact .inr (.inl ⟨rfl, rfl, rfl⟩)
    | some cw => exact .inr (.inr ⟨rfl, cw, rfl, h⟩)
  · cases h; exact .inl ⟨rfl, rfl⟩

/-- All a step can do when it answers a next state: nothing where the host presents nothing more, else take
the first item (R26). -/
theorem step_next_cases {s t : State} (h : step s = .next t) :
    (s.port = [] ∧ t = s) ∨
    (∃ p rest, s.port = p :: rest ∧ accept p { s with port := rest } = .next t) := by
  unfold step takeNext at h
  split at h
  · next hp => cases h; exact .inl ⟨hp, rfl⟩
  · next p rest hp => exact .inr ⟨p, rest, hp, h⟩

/-- A run of no step leaves the state. -/
@[simp] theorem runSteps_zero (s : State) : runSteps 0 s = .next s := rfl

/-- A run of one more step, from a step that answers a next state. -/
theorem runSteps_succ {s t : State} (h : step s = .next t) (k : Nat) :
    runSteps (k + 1) s = runSteps k t := by
  have h' : core.step s = .next t := h
  simp only [runSteps, Host.Core.run, h']
  rfl

/-- A run whose first step is refused is refused (R68). -/
theorem runSteps_refused {s : State} {r : Refusal} (h : step s = .refused r) (k : Nat) :
    runSteps (k + 1) s = .refused r := by
  have h' : core.step s = .refused r := h
  simp only [runSteps, Host.Core.run, h']
  rfl

end Sys2Proof.Machine
end

