-- ==== Sys2Proof/Tests/Slice0.lean ====
section
/-! SUPPORT. The model's own tests. Expected values are the spec's: words of 95_test_vectors.md section 8, single
steps of sections 2.1 to 2.3, spans of sections 3 to 5, frames of section 7, and the rules named. After them, for
every statement with hypotheses, a witness that meets them. -/

namespace Sys2Proof.Tests

open Sys2Proof Sys2Proof.Machine

/-- The state of section 2.3 of 95_test_vectors.md, with nothing presented. -/
def sample : State := ⟨0x1234, 0x56, [], [], []⟩

/-- The same state with these inputs to come. -/
def presenting (ps : List PortInput) : State := { sample with port := ps }

/-- The two registers after an outcome; none where there is no next state. -/
def registers (o : Host.Outcome State Fault Refusal) : Option (CrcWord × Byte) :=
  readAfter (fun t => (t.crc, t.sum)) o

/-- The two histories after an outcome. -/
def histories (o : Host.Outcome State Fault Refusal) : Option (List Byte × List Byte) :=
  readAfter (fun t => (t.histC, t.histS)) o

/-- LEN and CMD of one byte each, as in section 7 of 95_test_vectors.md. -/
def oneByteFields : FrameFormat := ⟨0, 0, .msbFirst⟩

/-- The values read by a program; none where it was refused. -/
def reads : Host.Outcome (State × List ReadValue) Fault Refusal → Option (List ReadValue)
  | .next (_, vs) => some vs
  | .fault _ => none
  | .refused _ => none

/-! ### Well-formedness: the one check there is (R34) -/

theorem test_reserved_is_ill_formed : (Instr.reserved 0x000).wellFormed = false := by decide
theorem test_reserved_high_is_ill_formed : (Instr.reserved 0x3FF).wellFormed = false := by decide
theorem test_byte_any_data_is_well_formed : (Instr.byteC 0x00).wellFormed = true := by decide

/-! ### Decoding of words written out from R30: `oo cs dddddddd` -/

theorem test_decode_nop : decode 0b00_0_0_00000000 = .nop := by decide
theorem test_decode_nop_ignored_bits : decode 0b00_1_1_11111111 = .nop := by decide
theorem test_decode_init0 : decode 0b01_0_0_10101011 = .init0 := by decide
theorem test_decode_initS : decode 0b01_0_1_00000000 = .initS := by decide
theorem test_decode_initC : decode 0b01_1_0_11111111 = .initC := by decide
theorem test_decode_initCS : decode 0b01_1_1_00000000 = .initCS := by decide
theorem test_decode_byte0 : decode 0b10_0_0_00110001 = .byte0 0x31 := by decide
theorem test_decode_byteS : decode 0b10_0_1_00110001 = .byteS 0x31 := by decide
theorem test_decode_byteC : decode 0b10_1_0_01111110 = .byteC 0x7E := by decide
theorem test_decode_byteCS : decode 0b10_1_1_11111111 = .byteCS 0xFF := by decide
theorem test_decode_reserved : decode 0b11_0_1_00110001 = .reserved 0b0100110001 := by decide
theorem test_encode_byteC : encode (.byteC 0x31) = 0xA31 := by decide
theorem test_encode_byteS : encode (.byteS 0x31) = 0x931 := by decide
theorem test_encode_initCS : encode .initCS = 0x700 := by decide
theorem test_decodeNat_rejects_thirteen_bits :
    decodeNat 0x1000 = .error .widerThanTwelveBits := by decide
theorem test_table_word : decodeTableWord 16 0xB31 = some (.byteCS 0x31) := by decide
theorem test_table_word_twelve_bits : decodeTableWord 12 0x500 = some .initS := by decide
theorem test_table_word_too_wide : decodeTableWord 16 0x1000 = none := by decide

/-! ### Every command once, from the state of section 2.3 -/

theorem test_nop : registers (exec .nop sample) = some (0x1234, 0x56) := by decide
theorem test_init0 : registers (exec .init0 sample) = some (0x1234, 0x56) := by decide
theorem test_initS : registers (exec .initS sample) = some (0x1234, 0x00) := by decide
theorem test_initC : registers (exec .initC sample) = some (0xFFFF, 0x56) := by decide
theorem test_initCS : registers (exec .initCS sample) = some (0xFFFF, 0x00) := by decide
theorem test_byte0 : registers (exec (.byte0 0x56) sample) = some (0x1234, 0x56) := by decide
theorem test_byteS : registers (exec (.byteS 0x56) sample) = some (0x1234, 0xAC) := by decide
theorem test_byteC : registers (exec (.byteC 0x56) sample) = some (0x3C40, 0x56) := by decide
theorem test_byteCS : registers (exec (.byteCS 0x56) sample) = some (0x3C40, 0xAC) := by decide
theorem test_byteCS_histories :
    histories (exec (.byteCS 0x56) { sample with histC := [0x01], histS := [0x02] }) =
      some ([0x01, 0x56], [0x02, 0x56]) := by decide
theorem test_reserved : exec (.reserved 0x131) sample = .refused (.reservedWord 0x131) := rfl

/-! ### Steps: a command, reset before a command (P8), nothing presented -/

theorem test_step_runs_the_word :
    registers (step (presenting [.command 0xB56])) = some (0x3C40, 0xAC) := by decide
theorem test_step_reset_wins :
    registers (step (presenting [⟨true, some 0xB34⟩])) = some (0xFFFF, 0x00) := by decide
theorem test_step_reset_wins_over_reserved :
    registers (step (presenting [⟨true, some 0xC00⟩])) = some (0xFFFF, 0x00) := by decide
theorem test_step_idle : registers (step (presenting [.idle])) = some (0x1234, 0x56) := by decide
theorem test_step_nothing_presented : registers (step sample) = some (0x1234, 0x56) := by decide
theorem test_step_reserved :
    step (presenting [.command 0xFFF]) = .refused (.reservedWord 0x3FF) := rfl
theorem test_step_of_placed_word :
    registers (step (State.reset.withFetchWord 16 0xB31)) = some (0xC782, 0x31) := by decide

/-! ### Outputs (R13), arithmetic (sections 2.1, 2.2), spans (sections 3 to 5), residue (R61) -/

theorem test_outputs :
    (crcOut sample, crcOutWith 0xFFFF sample, sumOut sample) = (0x1234, 0xEDCB, 0x56) := by decide
theorem test_crcStep_trace : crcStep 0xFFFF 0x31 = 0xC782 := by decide
theorem test_crcStep_fixed_point : crcStep 0xF01F 0x00 = 0xF01F := by decide
theorem test_crcStep_top_byte : crcStep 0x29B1 0x29 = 0xB100 := by decide
theorem test_crcStepTable : crcStepTable 0xFFFF 0x31 = 0xC782 := by decide +kernel
theorem test_crcStepSerial : crcStepSerial 0x1234 0x56 = 0x3C40 := by decide
theorem test_sumStep_wraps : sumStep 0xFF 0x01 = 0x00 := by decide
theorem test_crcReg_check :
    crcReg [0x31, 0x32, 0x33, 0x34, 0x35, 0x36, 0x37, 0x38, 0x39] = 0x29B1 := by decide +kernel
theorem test_sum8_check :
    sum8 [0x31, 0x32, 0x33, 0x34, 0x35, 0x36, 0x37, 0x38, 0x39] = 0xDD := by decide
theorem test_crc16_catalogue_xorout :
    crc16With 0xFFFF [0x05, 0x39, 0xDE, 0xAD] = 0xCE21 := by decide +kernel
theorem test_crcReg_interleaved : crcReg [0x01, 0x10, 0x02] = 0xD89D := by decide +kernel
theorem test_crcReg_residue : crcReg [0xFF, 0xFF] = 0x0000 := by decide +kernel
theorem test_residueOut_catalogue : residueOut 0xFFFF = 0xE2F0 := by decide +kernel

/-! ### The host's side (section 7) -/

theorem test_frameSpan :
    frameSpan oneByteFields .crc16 [0x39] [0xDE, 0xAD] = some [0x05, 0x39, 0xDE, 0xAD] := by decide
theorem test_frameSpan_without_cmd : frameSpan oneByteFields .crc16 [] [0xDE] = none := by decide
theorem test_writeLen_two_bytes : writeLen ⟨1, 0, .msbFirst⟩ 0x0105 = [0x01, 0x05] := by decide
theorem test_takeFrame :
    takeFrame oneByteFields (fun _ => .crc16) [0x7E, 0x05, 0x39, 0xDE, 0xAD, 0x31, 0xDE, 0x7E] =
      some ⟨.crc16, [0x05], [0x39], [0xDE, 0xAD], [0x31, 0xDE]⟩ := by decide
theorem test_takeFrame_truncated :
    takeFrame oneByteFields (fun _ => .crc16) [0x7E, 0x05, 0x39, 0xDE, 0xAD, 0x31, 0xDE] = none := by
  decide
theorem test_receiveFrame_corrupted :
    receiveFrame .msbFirst 0x0000 oneByteFields (fun _ => .checksum)
      [0x7E, 0x02, 0x22, 0x25, 0x7E] sample = some .validationFail := by decide +kernel
theorem test_checkResidue_width : checkResidue 0x0000 [0xFF, 0xFF] [] sample = some false := by decide
theorem test_placeCrc_lsbFirst : placeCrc .lsbFirst 0xCE21 = [0x21, 0xCE] := by decide
theorem test_assembleCrc : assembleCrc .msbFirst [0x31, 0xDE] = some 0x31DE := by decide
theorem test_assembleCrc_width : assembleCrc .msbFirst [0x31] = none := by decide
theorem test_crcMacro : crcMacro [0x31, 0x32] = [0x600, 0xA31, 0xA32] := by decide
theorem test_buildFrame_no_payload :
    buildFrame .msbFirst 0x0000 oneByteFields .checksum [0x22] [] sample =
      some [0x7E, 0x02, 0x22, 0x24, 0x7E] := by decide +kernel
theorem test_lineText : lineText (.command (.byteC 0x31)) = some "BYTE.C 0x31" := by decide +kernel
theorem test_issue_reads :
    reads (issue 0x0000 [.command (.byteS 0x56), .readSumOut] sample) = some [.sumOut 0xAC] := by
  decide

/-! ### Witnesses: for every statement with hypotheses, values that meet them -/

theorem witness_DecodeOfEncodeIsTheCommand :
    (Instr.byteC 0x31).wellFormed = true ∧ (Instr.nop).wellFormed = true ∧
    opField 0x2A5 ≠ 0b11#2 ∧ opField 0xBFF ≠ 0b11#2 := by decide

/-- The first and last word of each row of R31. -/
theorem witness_DecodeTableRowsPartitionTheWords :
    ((0x000 : CommandWord) &&& 0xC00 = 0x000 ∧ (0x3FF : CommandWord) &&& 0xC00 = 0x000) ∧
    ((0x400 : CommandWord) &&& 0xF00 = 0x400 ∧ (0x4FF : CommandWord) &&& 0xF00 = 0x400) ∧
    ((0x500 : CommandWord) &&& 0xF00 = 0x500 ∧ (0x5FF : CommandWord) &&& 0xF00 = 0x500) ∧
    ((0x600 : CommandWord) &&& 0xF00 = 0x600 ∧ (0x6FF : CommandWord) &&& 0xF00 = 0x600) ∧
    ((0x700 : CommandWord) &&& 0xF00 = 0x700 ∧ (0x7FF : CommandWord) &&& 0xF00 = 0x700) ∧
    ((0x800 : CommandWord) &&& 0xF00 = 0x800 ∧ (0x8FF : CommandWord) &&& 0xF00 = 0x800) ∧
    ((0x900 : CommandWord) &&& 0xF00 = 0x900 ∧ (0x9FF : CommandWord) &&& 0xF00 = 0x900) ∧
    ((0xA00 : CommandWord) &&& 0xF00 = 0xA00 ∧ (0xAFF : CommandWord) &&& 0xF00 = 0xA00) ∧
    ((0xB00 : CommandWord) &&& 0xF00 = 0xB00 ∧ (0xBFF : CommandWord) &&& 0xF00 = 0xB00) ∧
    ((0xC00 : CommandWord) &&& 0xC00 = 0xC00 ∧ (0xFFF : CommandWord) &&& 0xC00 = 0xC00) ∧
    opcodeRow .nop ∈ opcodeTable ∧ opcodeRow (.reserved 0) ∈ opcodeTable := by decide

theorem witness_IgnoredBitsHaveNoEffect :
    opField 0x3FF = 0b00#2 ∧
    (opField 0x600 = 0b01#2 ∧ opField 0x6FF = 0b01#2 ∧ ucField 0x600 = ucField 0x6FF ∧
      usField 0x600 = usField 0x6FF) ∧
    (opField 0x4AB = 0b01#2 ∧ ucField 0x4AB = false ∧ usField 0x4AB = false) ∧
    (opField 0x8FF = 0b10#2 ∧ ucField 0x8FF = false ∧ usField 0x8FF = false) := by decide

theorem witness_ReservedWordIsRefusedInEveryState :
    (0xC00 : CommandWord) &&& 0xC00 = 0xC00 ∧ (0xFFF : CommandWord) &&& 0xC00 = 0xC00 ∧
    (presenting [.command 0xFFF]).port = PortInput.command 0xFFF :: [] := by decide

theorem witness_RunThatTakesAReservedWordIsRefused :
    (∀ p ∈ [PortInput.command 0x700, ⟨true, some 0xC00⟩, .idle], p.meaningful = true) ∧
    opField 0xFFF = 0b11#2 ∧
    (presenting [.command 0x700, ⟨true, some 0xC00⟩, .idle, .command 0xFFF]).port =
      [PortInput.command 0x700, ⟨true, some 0xC00⟩, .idle] ++ PortInput.command 0xFFF :: [] ∧
    [PortInput.command 0x700, ⟨true, some 0xC00⟩, .idle].length < 4 := by decide

theorem witness_NoFaultAndExactlyReservedWordsAreRefused :
    (∃ r, step (presenting [.command 0xC00]) = .refused r) ∧
    (∃ t, step (presenting [.command 0xBFF]) = .next t) := ⟨⟨_, rfl⟩, ⟨_, rfl⟩⟩

theorem witness_StepExecutesTheDecodedCommand :
    (presenting [.command 0xA31, .idle]).port = PortInput.command 0xA31 :: [.idle] := by decide

theorem witness_PlacedTableWordIsTheNextCommand :
    decodeTableWord 16 0xBFF = some (.byteCS 0xFF) := by decide

theorem witness_ResetWinsOverACommandInTheSameStep :
    (presenting [⟨true, some 0xB34⟩, .idle]).port = ⟨true, some 0xB34⟩ :: [.idle] := by decide

theorem witness_StepWithoutACommandKeepsTheRegisters :
    sample.port = [] ∧ (presenting [.idle, .command 0x700]).port =
      PortInput.idle :: [.command 0x700] := by decide

theorem witness_SpanAfterResetNeedsNoInit :
    (presenting [⟨true, none⟩, .command 0xB34, .command 0x500, .idle]).port =
      ⟨true, none⟩ :: [PortInput.command 0xB34, .command 0x500] ++ [.idle] ∧
    (∀ p ∈ [PortInput.command 0xB34, .command 0x500], p.keepsCrcSpan = true) ∧
    (presenting [⟨true, none⟩, .command 0xB34, .command 0x600, .idle]).port =
      ⟨true, none⟩ :: [PortInput.command 0xB34, .command 0x600] ++ [.idle] ∧
    (∀ p ∈ [PortInput.command 0xB34, .command 0x600], p.keepsSumSpan = true) := by decide

theorem witness_EveryMeaningfulInputIsTaken :
    (∀ p ∈ [PortInput.command 0xBFF, ⟨true, some 0xFFF⟩, .idle], p.meaningful = true) ∧
    (presenting [.command 0xBFF, ⟨true, some 0xFFF⟩, .idle, .command 0xC00]).port =
      [PortInput.command 0xBFF, ⟨true, some 0xFFF⟩, .idle] ++ [.command 0xC00] := by decide

theorem witness_NopChangesNothing : (0x3FF : CommandWord) &&& 0xC00 = 0x000 := by decide
theorem witness_InitZeroChangesNothing : (0x4FF : CommandWord) &&& 0xF00 = 0x400 := by decide
theorem witness_ByteZeroAbsorbsNothing : (0x8FF : CommandWord) &&& 0xF00 = 0x800 := by decide
theorem witness_InitSumInitialisesOnlyTheSumUnit :
    (0x5FF : CommandWord) &&& 0xF00 = 0x500 := by decide
theorem witness_ByteSumAddsModulo256 : (0x9FF : CommandWord) &&& 0xF00 = 0x900 := by decide
theorem witness_InitCrcInitialisesOnlyTheCrcUnit :
    (0x6FF : CommandWord) &&& 0xF00 = 0x600 := by decide
theorem witness_ByteCrcAppliesCrcStep : (0xAFF : CommandWord) &&& 0xF00 = 0xA00 := by decide
theorem witness_InitBothIsInitCrcAndInitSum :
    (0x7FF : CommandWord) &&& 0xF00 = 0x700 := by decide
theorem witness_ByteBothIsByteCrcAndByteSum :
    (0xBFF : CommandWord) &&& 0xF00 = 0xB00 := by decide

theorem witness_BlockIsTheProductOfTwoOneRegisterMachines :
    opField 0xFFF = 0b11#2 ∧ opField 0xBFF ≠ 0b11#2 ∧
    (∀ cw ∈ [0x600, 0xA05, 0x904, (0xBFF : CommandWord)], opField cw ≠ 0b11#2) := by decide

theorem witness_NeitherUnitInfluencesTheOther :
    let s := presenting [.command 0xB31]
    (∃ t, runSteps 1 s = .next t) ∧
    (s.port = ({ s with sum := 0xFF, histS := [0xFF] } : State).port ∧
      s.crc = ({ s with sum := 0xFF, histS := [0xFF] } : State).crc ∧
      s.histC = ({ s with sum := 0xFF, histS := [0xFF] } : State).histC) ∧
    (s.port = ({ s with crc := 0xFFFF, histC := [0xFF] } : State).port ∧
      s.sum = ({ s with crc := 0xFFFF, histC := [0xFF] } : State).sum ∧
      s.histS = ({ s with crc := 0xFFFF, histC := [0xFF] } : State).histS) :=
  ⟨⟨_, rfl⟩, ⟨rfl, rfl, rfl⟩, rfl, rfl, rfl⟩

theorem witness_RegistersChangeOnlyByTheirWriters :
    ∃ t, step (presenting [.command 0xB31]) = .next t ∧ t.crc ≠ 0x1234 ∧ t.sum ≠ 0x56 :=
  ⟨_, rfl, by decide, by decide⟩

theorem witness_ChecksumLawsOverSpans :
    [0x01, (0x02 : Byte)].Perm [0x02, 0x01] ∧ (0x00 : Byte) ≠ 0xFF := by decide

theorem witness_CrcStepIsLinear :
    [0x31, (0x32 : Byte)].length = [0x31, (0x33 : Byte)].length := by decide

/-- Two spans that differ in the first and the last bit of a window of 16 that begins inside a byte. -/
theorem witness_BurstOfSixteenBitsChangesTheCrc :
    let s : List Byte := [0x01, 0x00, 0x00]
    let s' : List Byte := [0x00, 0x00, 0x02]
    s.length = s'.length ∧ s ≠ s' ∧
    (∀ i, spanBit s i ≠ spanBit s' i → 7 ≤ i ∧ i < 7 + 16) ∧
    (0x00 : Byte) ≠ 0x80 ∧ ((0x00, 0x01) : Byte × Byte) ≠ (0x80, 0x01) := by
  refine ⟨rfl, by decide, ?_, by decide, by decide⟩
  intro i h
  by_cases hi : i < 24
  · revert h
    revert i
    decide
  · refine absurd ?_ h
    obtain ⟨k, hk⟩ : ∃ k, i / 8 = k + 3 := ⟨i / 8 - 3, by omega⟩
    simp [spanBit, hk]

theorem witness_EveryStepKeepsTheHistoryInvariant :
    let s : State := { State.reset with port := [.command 0xB31] }
    HistoryInv s ∧ (∃ t, step s = .next t) ∧ (∃ t, runSteps 1 s = .next t) :=
  ⟨⟨rfl, rfl, fun _ => rfl, rfl⟩, ⟨_, rfl⟩, ⟨_, rfl⟩⟩

theorem witness_EveryRegisterPairIsReachable :
    Instr.nop.wellFormed = true ∧ (Instr.byteCS 0xFF).wellFormed = true := by decide

theorem witness_CrcUnitComputesTheCrcOfItsBytes :
    let ps : List PortInput := [.command 0xA31, .command 0x500, .idle, .command 0x2A5, .command 0xB32]
    decode 0x6FF = .initC ∧ decode 0x700 = .initCS ∧
    (presenting (.command 0x6FF :: ps ++ [.idle])).port = PortInput.command 0x6FF :: ps ++ [.idle] ∧
    (∀ p ∈ ps, p.keepsCrcSpan = true) ∧ ps.filterMap PortInput.crcByte = [0x31, 0x32] := by decide

theorem witness_SumUnitComputesTheChecksumOfItsBytes :
    let ps : List PortInput := [.command 0x931, .command 0x600, .idle, .command 0x1A5, .command 0xB32]
    decode 0x5FF = .initS ∧ decode 0x700 = .initCS ∧
    (presenting (.command 0x5FF :: ps ++ [.idle])).port = PortInput.command 0x5FF :: ps ++ [.idle] ∧
    (∀ p ∈ ps, p.keepsSumSpan = true) ∧ ps.filterMap PortInput.sumByte = [0x31, 0x32] := by decide

theorem witness_MissingInitContinuesTheOldSpan :
    HistoryInv { State.reset with crc := 0xC782, sum := 0x31, histC := [0x31], histS := [0x31] } := by
  have h : (0xC782 : CrcWord) = crcReg [0x31] := by decide
  have h' : (0x31 : Byte) = sum8 [0x31] := by decide
  exact ⟨h, h', fun x => by rw [crcOutWith, crc16With, ← h], h'⟩

theorem witness_EarlyReadShowsTheBytesFedSoFar :
    0 ≤ [0x31, (0x32 : Byte)].length ∧ 2 ≤ [0x31, (0x32 : Byte)].length := by decide

theorem witness_CorruptedFrameIsRejected :
    [0x32, (0xDE : Byte)] ≠ [0x31, 0xDE] ∧
    [0x05, 0x39, 0xDE, (0xAD : Byte)] = [0x05, 0x39] ++ [0xDE] ++ [0xAD] ∧
    (0xDE : Byte) ≠ 0xDF := by decide

/-- The largest counts that a one-byte LEN holds, and a two-byte LEN. -/
theorem witness_OutboundFrameCarriesTheFunctionOfItsSpan :
    [(0x39 : Byte)].length = cmdWidth oneByteFields ∧
    [(0x39 : Byte)].length + (List.replicate 253 (0x00 : Byte)).length + 1 <
      256 ^ lenWidth oneByteFields ∧
    [(0x39 : Byte)].length + (List.replicate 252 (0x00 : Byte)).length + 2 <
      256 ^ lenWidth oneByteFields ∧
    lenWidth oneByteFields = 1 ∧ [0x39, (0x00 : Byte)].length = cmdWidth ⟨1, 1, .lsbFirst⟩ ∧
    [0x39, (0x00 : Byte)].length + (List.replicate 253 (0x00 : Byte)).length + 2 <
      256 ^ lenWidth ⟨1, 1, .lsbFirst⟩ := by
  refine ⟨rfl, ?_, ?_, rfl, rfl, ?_⟩ <;> rw [List.length_replicate] <;> decide

theorem witness_ReceivedFrameIsAcceptedExactlyWithTheFieldOfItsSpan :
    let p : FrameParts := ⟨.crc16, [0x05], [0x39], [0xDE, 0xAD], [0x31, 0xDE]⟩
    let received : List Byte := [0x7E, 0x05, 0x39, 0xDE, 0xAD, 0x31, 0xDE, 0x7E]
    takeFrame oneByteFields (fun _ => .crc16) received = some p ∧
    receiveFrame .msbFirst 0x0000 oneByteFields (fun _ => .crc16) received sample =
      some (.accepted p) := by decide +kernel

theorem witness_BuiltFrameIsTakenApartAndAccepted :
    ∃ frame, buildFrame .lsbFirst 0xFFFF oneByteFields .crc16 [0x39] [0xDE, 0xAD] sample =
      some frame := ⟨[0x7E, 0x05, 0x39, 0xDE, 0xAD, 0x21, 0xCE, 0x7E], by decide +kernel⟩

theorem witness_DamagedFrameIsRejected :
    (∃ frame, buildFrame .msbFirst 0x0000 oneByteFields .checksum [0x39] [0xDE, 0xAD] sample =
      some frame) ∧
    [(0xC9 : Byte)].length = [(0xC8 : Byte)].length ∧ [(0xC9 : Byte)] ≠ [0xC8] ∧
    [0xDE, (0xAD : Byte)] = [0xDE] ++ [0xAD] ++ [] ∧ (0xAD : Byte) ≠ 0xAC :=
  ⟨⟨[0x7E, 0x04, 0x39, 0xDE, 0xAD, 0xC8, 0x7E], by decide +kernel⟩, by decide⟩

theorem witness_FieldOfAnotherWidthIsRejected :
    ([] : List Byte).length ≠ integrityWidth .checksum ∧
    [0x00, (0x00 : Byte)].length ≠ integrityWidth .checksum ∧
    [(0x00 : Byte)].length ≠ integrityWidth .crc16 ∧
    [0x00, 0x00, (0x00 : Byte)].length ≠ 2 ∧ ([] : List Byte).length ≠ 2 := by decide

end Sys2Proof.Tests
end

/-! ## Proofs: what a step does to the state

The layer the proofs of 10_state.md stand on: the step as one inversion lemma, runs as iterated steps,
words served one by one. -/

namespace Sys2Proof.Machine

/-! ### One step -/

/-- All a step can do to the registers and histories: leave them as they are, reset them, or execute the
word it took (R10, R11, R18). -/
theorem step_next_effect {s t : State} (h : step s = .next t) :
    (∃ rest, t = { s with port := rest }) ∨
    ∃ p rest, s.port = p :: rest ∧
      (p.reset = true ∧ t = applyReset { s with port := rest } ∨
        ∃ cw, p.cw = some cw ∧ exec (decode cw) { s with port := rest } = .next t) := by
  obtain ⟨-, rfl⟩ | ⟨p, rest, hp, ha⟩ := step_next_cases h
  · exact .inl ⟨t.port, rfl⟩
  · obtain ⟨hr, ht⟩ | ⟨-, -, ht⟩ | ⟨-, cw, hcw, he⟩ := accept_next_cases ha
    · exact .inr ⟨p, rest, hp, .inl ⟨hr, ht⟩⟩
    · exact .inl ⟨rest, ht⟩
    · exact .inr ⟨p, rest, hp, .inr ⟨cw, hcw, he⟩⟩

/-- With nothing on the port a step leaves the state. -/
theorem step_of_port_nil {s : State} (h : s.port = []) : step s = .next s := by
  simp only [step, takeNext, h]

/-- With an item on the port a step accepts it and takes it off the port. -/
theorem step_of_port_cons {s : State} {p : PortInput} {rest : List PortInput}
    (h : s.port = p :: rest) : step s = accept p { s with port := rest } := by
  simp only [step, takeNext, h]

/-! ### Runs -/

/-- A run of one more step that answers a next state begins with a step that does. -/
theorem runSteps_succ_next {k : Nat} {s t : State} (h : runSteps (k + 1) s = .next t) :
    ∃ u, step s = .next u ∧ runSteps k u = .next t := by
  cases hs : step s with
  | next u => exact ⟨u, rfl, runSteps_succ hs k ▸ h⟩
  | fault f => cases f
  | refused r => rw [runSteps_refused hs] at h; cases h

/-- What every step keeps, every run keeps. -/
theorem runSteps_keeps {P : State → Prop} (hP : ∀ s t, P s → step s = .next t → P t)
    {k : Nat} {s t : State} (hs : P s) (h : runSteps k s = .next t) : P t := by
  induction k generalizing s with
  | zero => cases h; exact hs
  | succ k ih =>
    obtain ⟨u, hu, hrun⟩ := runSteps_succ_next h
    exact ih (hP s u hs hu) hrun

/-- A relation that every step carries from one state to the other, every run carries too. -/
theorem runSteps_simulates {R : State → State → Prop}
    (hR : ∀ s s' t, R s s' → step s = .next t → ∃ t', step s' = .next t' ∧ R t t')
    {k : Nat} {s s' t : State} (hs : R s s') (h : runSteps k s = .next t) :
    ∃ t', runSteps k s' = .next t' ∧ R t t' := by
  induction k generalizing s s' with
  | zero => cases h; exact ⟨s', rfl, hs⟩
  | succ k ih =>
    obtain ⟨u, hu, hrun⟩ := runSteps_succ_next h
    obtain ⟨u', hu', huu'⟩ := hR s s' u hs hu
    obtain ⟨t', ht', htt'⟩ := ih huu' hrun
    exact ⟨t', by rw [runSteps_succ hu', ht'], htt'⟩

/-! ### Words served to the block -/

/-- Every meaningful command completes in every state (R80). -/
theorem exec_next_of_wellFormed {i : Instr} (h : i.wellFormed = true) (s : State) :
    ∃ t, exec i s = .next t := by
  cases i with
  | reserved low => cases h
  | _ => exact ⟨_, rfl⟩

/-- The decoder reads the word of a meaningful command as that command (R39). -/
theorem decode_encode {i : Instr} (h : i.wellFormed = true) : decode (encode i) = i := by
  cases i with
  | reserved low => cases h
  | _ => simp [encode, decode, initForm, byteForm]

/-- A command does the same whatever the host presents after it. -/
theorem exec_present {i : Instr} {s t : State} (h : exec i s = .next t) (ws : List CommandWord) :
    exec i (present ws s) = .next (present ws t) := by
  obtain ⟨rfl | rfl | ⟨d, rfl⟩, rfl⟩ | ⟨rfl, rfl⟩ | ⟨rfl, rfl⟩ | ⟨rfl, rfl⟩ | ⟨d, rfl, rfl⟩ |
    ⟨d, rfl, rfl⟩ | ⟨d, rfl, rfl⟩ := exec_next_cases h <;> rfl

/-- Serving no word leaves the state. -/
@[simp] theorem serve_nil (s : State) : serve [] s = .next s := rfl

/-- Serving the word of a meaningful command and then others: the command, then the others (R26). -/
theorem serve_encode_cons {i : Instr} (hi : i.wellFormed = true) {s t : State}
    (h : exec i s = .next t) (ws : List CommandWord) : serve (encode i :: ws) s = serve ws t := by
  have hport : (present (encode i :: ws) s).port =
      PortInput.command (encode i) :: (present ws s).port := rfl
  have hstep : step (present (encode i :: ws) s) = .next (present ws t) := by
    rw [step_of_port_cons hport]
    calc accept (.command (encode i)) (present ws s)
        = exec (decode (encode i)) (present ws s) := rfl
      _ = .next (present ws t) := by rw [decode_encode hi, exec_present h]
  exact runSteps_succ hstep ws.length

end Sys2Proof.Machine

/-! ## Proofs: two bytes into the CRC unit

Absorbing two bytes is sixteen shifts of the register XORed with both bytes at once, and a shift loses
nothing, so two bytes can bring the register to any value (41_crc16.md rules R51, R57, R58). -/

namespace Sys2Proof.Machine

/-- What the bit shifted out brings into the register: the polynomial or nothing (R51). -/
def crcFeedback (b : Bool) : CrcWord := if b then Config.poly else 0

theorem crcShift_eq (t : CrcWord) : crcShift t = t <<< 1 ^^^ crcFeedback (t.getLsbD 15) := by
  unfold crcShift crcFeedback
  split
  · rfl
  · exact BitVec.xor_zero.symm

theorem crcFeedback_xor (a b : Bool) : crcFeedback (a ^^ b) = crcFeedback a ^^^ crcFeedback b := by
  revert a b
  decide

/-- Bit 0 of the polynomial is 1, so bit 0 tells whether it came in. -/
theorem crcFeedback_getLsbD_zero (b : Bool) : (crcFeedback b).getLsbD 0 = b := by
  revert b
  decide

/-- The shift is linear over XOR (R57). -/
theorem crcShift_xor (a b : CrcWord) : crcShift (a ^^^ b) = crcShift a ^^^ crcShift b := by
  simp only [crcShift_eq, BitVec.getLsbD_xor, crcFeedback_xor, BitVec.shiftLeft_xor_distrib]
  ac_rfl

theorem crcShifts_xor (n : Nat) (a b : CrcWord) :
    crcShifts n (a ^^^ b) = crcShifts n a ^^^ crcShifts n b := by
  induction n generalizing a b with
  | zero => rfl
  | succ n ih => simp only [crcShifts, crcShift_xor, ih]

theorem crcShifts_add (m n : Nat) (t : CrcWord) :
    crcShifts (m + n) t = crcShifts n (crcShifts m t) := by
  induction m generalizing t with
  | zero => rw [Nat.zero_add]; rfl
  | succ m ih => rw [Nat.succ_add]; exact ih (crcShift t)

/-- Bit 0 of the result is the bit shifted out. -/
theorem crcShift_getLsbD_zero (t : CrcWord) : (crcShift t).getLsbD 0 = t.getLsbD 15 := by
  rw [crcShift_eq, BitVec.getLsbD_xor, crcFeedback_getLsbD_zero]
  simp

/-- Only zero is shifted to zero. -/
theorem crcShift_eq_zero {t : CrcWord} (h : crcShift t = 0) : t = 0 := by
  have hout : t.getLsbD 15 = false := by rw [← crcShift_getLsbD_zero, h]; rfl
  have hshift : t <<< 1 = 0 := by
    rw [crcShift_eq, hout] at h
    exact BitVec.xor_zero.symm.trans h
  ext i hi
  rcases Nat.lt_or_eq_of_le (Nat.le_of_lt_succ hi) with hlt | rfl
  · simpa [Nat.succ_lt_succ hlt] using congrArg (BitVec.getLsbD · (i + 1)) hshift
  · simpa using hout

theorem crcShift_injective : Function.Injective crcShift := fun a b h => by
  have hab : a ^^^ b = 0 := crcShift_eq_zero (by rw [crcShift_xor, h, BitVec.xor_self]; rfl)
  exact BitVec.xor_eq_zero_iff.mp hab

theorem crcShifts_injective (n : Nat) : Function.Injective (crcShifts n) := by
  induction n with
  | zero => exact Function.injective_id
  | succ n ih => exact ih.comp crcShift_injective

/-- Any register value is `n` shifts of some value: an injection of a finite type into itself. -/
theorem crcShifts_surjective (n : Nat) : Function.Surjective (crcShifts n) :=
  Finite.surjective_of_injective (crcShifts_injective n)

/-- Eight shifts move a value that fits the low byte into the high byte: no 1 reaches bit 15 before. -/
theorem crcShifts_eight_low (e : Byte) : crcShifts 8 (e.setWidth 16) = e.setWidth 16 <<< 8 := by
  revert e
  decide

theorem joinBytes_eq_xor (d e : Byte) : joinBytes d e = d.setWidth 16 <<< 8 ^^^ e.setWidth 16 := by
  apply BitVec.eq_of_getLsbD_eq
  intro i hi
  rw [joinBytes, BitVec.getLsbD_append]
  split
  · next h => simp [h, hi]
  · next h => simp [h, hi, BitVec.getLsbD_of_ge e i (by omega)]

/-- Two bytes absorbed one after the other are absorbed at once by sixteen shifts. -/
theorem crcStep_crcStep (c : CrcWord) (d e : Byte) :
    crcStep (crcStep c d) e = crcShifts 16 (c ^^^ joinBytes d e) :=
  calc crcStep (crcStep c d) e
      = crcShifts 8 (crcShifts 8 (c ^^^ d.setWidth 16 <<< 8) ^^^ crcShifts 8 (e.setWidth 16)) := by
        rw [crcShifts_eight_low]; rfl
    _ = crcShifts 8 (crcShifts 8 (c ^^^ joinBytes d e)) := by
        rw [← crcShifts_xor, BitVec.xor_assoc, ← joinBytes_eq_xor]
    _ = crcShifts 16 (c ^^^ joinBytes d e) := (crcShifts_add 8 8 _).symm

/-- From any register value two bytes lead to any other (R58). -/
theorem exists_crcStep_crcStep_eq (c v : CrcWord) : ∃ d e, crcStep (crcStep c d) e = v := by
  obtain ⟨t, ht⟩ := crcShifts_surjective 16 v
  refine ⟨hiByte (c ^^^ t), loByte (c ^^^ t), ?_⟩
  rw [crcStep_crcStep, joinBytes_hiByte_loByte, ← BitVec.xor_assoc, BitVec.xor_self,
    BitVec.zero_xor, ht]

end Sys2Proof.Machine

/-! ## Proofs: the state invariant (10_state.md rule R15) -/

namespace Sys2Proof.Machine

theorem sum8_concat (s : List Byte) (d : Byte) : sum8 (s ++ [d]) = sumStep (sum8 s) d := by
  apply BitVec.eq_of_toNat_eq
  simp [sumStep, sum8_toNat]

/-- The outputs follow the registers, so the invariant is about the two registers. -/
theorem historyInv_iff {s : State} :
    HistoryInv s ↔ s.crc = crcReg s.histC ∧ s.sum = sum8 s.histS where
  mp h := ⟨h.crc_eq, h.sum_eq⟩
  mpr h := by
    obtain ⟨hc, hs⟩ := h
    exact ⟨hc, hs, fun x => by rw [crcOutWith, hc, crc16With], hs⟩

namespace HistoryInv

variable {s : State}

theorem withPort (h : HistoryInv s) (ps : List PortInput) : HistoryInv { s with port := ps } :=
  historyInv_iff.mpr ⟨h.crc_eq, h.sum_eq⟩

theorem initCrc (h : HistoryInv s) : HistoryInv (initCrc s) :=
  historyInv_iff.mpr ⟨rfl, h.sum_eq⟩

theorem initSum (h : HistoryInv s) : HistoryInv (initSum s) :=
  historyInv_iff.mpr ⟨h.crc_eq, rfl⟩

theorem absorbCrc (h : HistoryInv s) (d : Byte) : HistoryInv (absorbCrc d s) :=
  historyInv_iff.mpr ⟨by simp [crcReg_concat, h.crc_eq], h.sum_eq⟩

theorem absorbSum (h : HistoryInv s) (d : Byte) : HistoryInv (absorbSum d s) :=
  historyInv_iff.mpr ⟨h.crc_eq, by simp [sum8_concat, h.sum_eq]⟩

end HistoryInv

theorem historyInv_applyReset (s : State) : HistoryInv (applyReset s) :=
  historyInv_iff.mpr ⟨rfl, rfl⟩

theorem exec_keeps_historyInv {i : Instr} {s t : State} (hs : HistoryInv s)
    (h : exec i s = .next t) : HistoryInv t := by
  obtain ⟨-, rfl⟩ | ⟨-, rfl⟩ | ⟨-, rfl⟩ | ⟨-, rfl⟩ | ⟨d, -, rfl⟩ | ⟨d, -, rfl⟩ | ⟨d, -, rfl⟩ :=
    exec_next_cases h
  · exact hs
  · exact hs.initSum
  · exact hs.initCrc
  · exact hs.initCrc.initSum
  · exact hs.absorbSum d
  · exact hs.absorbCrc d
  · exact (hs.absorbCrc d).absorbSum d

theorem step_keeps_historyInv {s t : State} (hs : HistoryInv s) (h : step s = .next t) :
    HistoryInv t := by
  obtain ⟨rest, rfl⟩ | ⟨p, rest, -, ⟨-, rfl⟩ | ⟨cw, -, he⟩⟩ := step_next_effect h
  · exact hs.withPort rest
  · exact historyInv_applyReset _
  · exact exec_keeps_historyInv (hs.withPort rest) he

/-- Settles O44: reset is what `applyReset` brings any state to, with nothing on the port. -/
theorem resetHasTheHistoryInvariant : Obligations.ResetHasTheHistoryInvariant :=
  historyInv_applyReset State.reset

/-- Settles O43, by the four register updates each keeping the invariant. -/
theorem everyStepKeepsTheHistoryInvariant : Obligations.EveryStepKeepsTheHistoryInvariant :=
  ⟨fun _ _ => step_keeps_historyInv,
    fun ps _ _ => runSteps_keeps (fun _ _ => step_keeps_historyInv)
      (resetHasTheHistoryInvariant.withPort ps)⟩

end Sys2Proof.Machine

/-! ## Proofs: the two units keep apart (10_state.md rules R10, R11, R18) -/

namespace Sys2Proof.Machine

/-- A relation between two states that present the same inputs and that every named update keeps. -/
structure KeptByUpdates (R : State → State → Prop) : Prop where
  port_eq : ∀ {s s'}, R s s' → s.port = s'.port
  withPort : ∀ {s s'}, R s s' → ∀ ps, R { s with port := ps } { s' with port := ps }
  initCrc : ∀ {s s'}, R s s' → R (initCrc s) (initCrc s')
  initSum : ∀ {s s'}, R s s' → R (initSum s) (initSum s')
  absorbCrc : ∀ {s s'}, R s s' → ∀ d, R (absorbCrc d s) (absorbCrc d s')
  absorbSum : ∀ {s s'}, R s s' → ∀ d, R (absorbSum d s) (absorbSum d s')
  applyReset : ∀ {s s'}, R s s' → R (applyReset s) (applyReset s')

namespace KeptByUpdates

variable {R : State → State → Prop} {s s' t : State}

theorem exec_simulates (hR : KeptByUpdates R) {i : Instr} (hs : R s s') (h : exec i s = .next t) :
    ∃ t', exec i s' = .next t' ∧ R t t' := by
  obtain ⟨rfl | rfl | ⟨d, rfl⟩, rfl⟩ | ⟨rfl, rfl⟩ | ⟨rfl, rfl⟩ | ⟨rfl, rfl⟩ | ⟨d, rfl, rfl⟩ |
    ⟨d, rfl, rfl⟩ | ⟨d, rfl, rfl⟩ := exec_next_cases h
  · exact ⟨s', rfl, hs⟩
  · exact ⟨s', rfl, hs⟩
  · exact ⟨s', rfl, hs⟩
  · exact ⟨_, rfl, hR.initSum hs⟩
  · exact ⟨_, rfl, hR.initCrc hs⟩
  · exact ⟨_, rfl, hR.initSum (hR.initCrc hs)⟩
  · exact ⟨_, rfl, hR.absorbSum hs d⟩
  · exact ⟨_, rfl, hR.absorbCrc hs d⟩
  · exact ⟨_, rfl, hR.absorbSum (hR.absorbCrc hs d) d⟩

theorem accept_simulates (hR : KeptByUpdates R) {p : PortInput} (hs : R s s')
    (h : accept p s = .next t) : ∃ t', accept p s' = .next t' ∧ R t t' := by
  obtain ⟨r, c⟩ := p
  obtain ⟨rfl, rfl⟩ | ⟨rfl, rfl, rfl⟩ | ⟨rfl, cw, rfl, he⟩ := accept_next_cases h
  · exact ⟨_, rfl, hR.applyReset hs⟩
  · exact ⟨s', rfl, hs⟩
  · exact hR.exec_simulates hs he

theorem step_simulates (hR : KeptByUpdates R) (hs : R s s') (h : step s = .next t) :
    ∃ t', step s' = .next t' ∧ R t t' := by
  have hport := hR.port_eq hs
  obtain ⟨hp, rfl⟩ | ⟨p, rest, hp, ha⟩ := step_next_cases h
  · exact ⟨s', step_of_port_nil (hport ▸ hp), hs⟩
  · rw [step_of_port_cons (hport ▸ hp)]
    exact hR.accept_simulates (hR.withPort hs rest) ha

end KeptByUpdates

/-- The two states present the same inputs and agree on the CRC unit. -/
def SameCrcUnit (s s' : State) : Prop := s.port = s'.port ∧ s.crc = s'.crc ∧ s.histC = s'.histC

/-- The two states present the same inputs and agree on the SUM unit. -/
def SameSumUnit (s s' : State) : Prop := s.port = s'.port ∧ s.sum = s'.sum ∧ s.histS = s'.histS

theorem sameCrcUnit_keptByUpdates : KeptByUpdates SameCrcUnit where
  port_eq := fun ⟨hp, _, _⟩ => hp
  withPort := fun ⟨_, hc, hh⟩ _ => ⟨rfl, hc, hh⟩
  initCrc := fun ⟨hp, _, _⟩ => ⟨hp, rfl, rfl⟩
  initSum := fun ⟨hp, hc, hh⟩ => ⟨hp, hc, hh⟩
  absorbCrc := fun ⟨hp, hc, hh⟩ d => ⟨hp, by simp [hc], by simp [hh]⟩
  absorbSum := fun ⟨hp, hc, hh⟩ _ => ⟨hp, hc, hh⟩
  applyReset := fun ⟨hp, _, _⟩ => ⟨hp, rfl, rfl⟩

theorem sameSumUnit_keptByUpdates : KeptByUpdates SameSumUnit where
  port_eq := fun ⟨hp, _, _⟩ => hp
  withPort := fun ⟨_, hs, hh⟩ _ => ⟨rfl, hs, hh⟩
  initCrc := fun ⟨hp, hs, hh⟩ => ⟨hp, hs, hh⟩
  initSum := fun ⟨hp, _, _⟩ => ⟨hp, rfl, rfl⟩
  absorbCrc := fun ⟨hp, hs, hh⟩ _ => ⟨hp, hs, hh⟩
  absorbSum := fun ⟨hp, hs, hh⟩ d => ⟨hp, by simp [hs], by simp [hh]⟩
  applyReset := fun ⟨hp, _, _⟩ => ⟨hp, rfl, rfl⟩

/-- Settles O28: agreement on one unit is a simulation, kept by every named update of the state. -/
theorem neitherUnitInfluencesTheOther : Obligations.NeitherUnitInfluencesTheOther :=
  ⟨fun _ _ _ _ hp hc hh => runSteps_simulates (R := SameCrcUnit)
      (fun _ _ _ => sameCrcUnit_keptByUpdates.step_simulates) ⟨hp, hc, hh⟩,
    fun _ _ _ _ hp hs hh => runSteps_simulates (R := SameSumUnit)
      (fun _ _ _ => sameSumUnit_keptByUpdates.step_simulates) ⟨hp, hs, hh⟩⟩

/-- The commands that write `crc` and its history (R10). -/
def WritesCrc (i : Instr) : Prop :=
  i = .initC ∨ i = .initCS ∨ ∃ d, i = .byteC d ∨ i = .byteCS d

/-- The commands that write `sum` and its history (R11). -/
def WritesSum (i : Instr) : Prop :=
  i = .initS ∨ i = .initCS ∨ ∃ d, i = .byteS d ∨ i = .byteCS d

/-- Frame of the CRC unit: a command that writes it, or the unit stays (R18). -/
theorem exec_writesCrc_or_frame {i : Instr} {s t : State} (h : exec i s = .next t) :
    WritesCrc i ∨ t.crc = s.crc ∧ t.histC = s.histC := by
  obtain ⟨-, rfl⟩ | ⟨-, rfl⟩ | ⟨hi, -⟩ | ⟨hi, -⟩ | ⟨d, -, rfl⟩ | ⟨d, hi, -⟩ | ⟨d, hi, -⟩ :=
    exec_next_cases h
  · exact .inr ⟨rfl, rfl⟩
  · exact .inr ⟨rfl, rfl⟩
  · exact .inl (.inl hi)
  · exact .inl (.inr (.inl hi))
  · exact .inr ⟨rfl, rfl⟩
  · exact .inl (.inr (.inr ⟨d, .inl hi⟩))
  · exact .inl (.inr (.inr ⟨d, .inr hi⟩))

/-- Frame of the SUM unit: a command that writes it, or the unit stays (R18). -/
theorem exec_writesSum_or_frame {i : Instr} {s t : State} (h : exec i s = .next t) :
    WritesSum i ∨ t.sum = s.sum ∧ t.histS = s.histS := by
  obtain ⟨-, rfl⟩ | ⟨hi, -⟩ | ⟨-, rfl⟩ | ⟨hi, -⟩ | ⟨d, hi, -⟩ | ⟨d, -, rfl⟩ | ⟨d, hi, -⟩ :=
    exec_next_cases h
  · exact .inr ⟨rfl, rfl⟩
  · exact .inl (.inl hi)
  · exact .inr ⟨rfl, rfl⟩
  · exact .inl (.inr (.inl hi))
  · exact .inl (.inr (.inr ⟨d, .inl hi⟩))
  · exact .inr ⟨rfl, rfl⟩
  · exact .inl (.inr (.inr ⟨d, .inr hi⟩))

/-- A step that does not keep what only the commands of `W` change took reset or a command of `W`. `Kept`
compares the states before and after and does not look at the port. -/
theorem step_taken_of_not_kept {W : Instr → Prop} {Kept : State → State → Prop}
    (hport : ∀ s ps, Kept s { s with port := ps })
    (hexec : ∀ {i s ps t}, exec i { s with port := ps } = .next t → W i ∨ Kept s t)
    {s t : State} (h : step s = .next t) (hne : ¬ Kept s t) :
    ∃ p rest, s.port = p :: rest ∧
      (p.reset = true ∨ ∃ cw, p.cw = some cw ∧ W (decode cw)) := by
  obtain ⟨rest, rfl⟩ | ⟨p, rest, hp, ⟨hr, -⟩ | ⟨cw, hcw, he⟩⟩ := step_next_effect h
  · exact absurd (hport s rest) hne
  · exact ⟨p, rest, hp, .inl hr⟩
  · exact ⟨p, rest, hp, .inr ⟨cw, hcw, (hexec he).resolve_right hne⟩⟩

/-- Settles O29: without a writer the frame of the unit holds, so a change shows that one was taken. -/
theorem registersChangeOnlyByTheirWriters : Obligations.RegistersChangeOnlyByTheirWriters :=
  fun _ _ h =>
    ⟨fun hne => step_taken_of_not_kept (W := WritesCrc)
        (Kept := fun s t => t.crc = s.crc ∧ t.histC = s.histC)
        (fun _ _ => ⟨rfl, rfl⟩) exec_writesCrc_or_frame h (not_and_or.mpr hne),
      fun hne => step_taken_of_not_kept (W := WritesSum)
        (Kept := fun s t => t.sum = s.sum ∧ t.histS = s.histS)
        (fun _ _ => ⟨rfl, rfl⟩) exec_writesSum_or_frame h (not_and_or.mpr hne)⟩

end Sys2Proof.Machine

/-! ## Proofs: reachable registers, idle steps, reset and outputs (10_state.md rules R13, R16, R17) -/

namespace Sys2Proof.Machine

/-- Settles O45: two bytes bring the CRC register from its reset value to any value (R58), one byte the SUM
register. -/
theorem everyRegisterPairIsReachable : Obligations.EveryRegisterPairIsReachable := by
  refine ⟨fun i s hi => exec_next_of_wellFormed hi s, fun c v => ?_⟩
  obtain ⟨d, e, hde⟩ := exists_crcStep_crcStep_eq State.reset.crc c
  refine ⟨[encode (.byteC d), encode (.byteC e), encode (.byteS v)],
    absorbSum v (absorbCrc e (absorbCrc d State.reset)), ?_, hde, BitVec.zero_add v⟩
  rw [serve_encode_cons rfl rfl, serve_encode_cons rfl rfl, serve_encode_cons rfl rfl, serve_nil]

/-- Settles O13: the empty port and the idle item. -/
theorem stepWithoutACommandKeepsTheRegisters : Obligations.StepWithoutACommandKeepsTheRegisters :=
  ⟨fun _ h => step_of_port_nil h, fun _ _ h => step_of_port_cons h⟩

/-- INIT.CS leaves what reset leaves (R16, R64). -/
theorem exec_initCS_eq_reset (s : State) :
    exec .initCS s = .next { State.reset with port := s.port } := rfl

/-- Settles O14: the empty span's values, by the invariant at reset. -/
theorem resetStateAndItsOutputs : Obligations.ResetStateAndItsOutputs := by
  have hinv : HistoryInv State.reset := resetHasTheHistoryInvariant
  exact ⟨rfl, rfl, rfl, rfl, fun x => ⟨rfl, hinv.crcOut_eq x⟩, rfl, hinv.sumOut_eq,
    exec_initCS_eq_reset⟩

/-- Settles O30: XOR bit by bit, with all zeros and with all ones. -/
theorem outputsAreTheRegistersAndXorout : Obligations.OutputsAreTheRegistersAndXorout := by
  intro s
  have hzero : crcOutWith 0x0000 s = s.crc := BitVec.xor_zero
  have hones : crcOutWith 0xFFFF s = ~~~ s.crc := BitVec.xor_allOnes
  exact ⟨fun _ => rfl, fun _ _ => BitVec.getLsbD_xor, hzero, hones, hzero, rfl⟩

end Sys2Proof.Machine

/-! ## Proofs: a step takes one command, a run folds the step function (20_memory.md rule R26)

The decoder's four answers by `op`, the registers after each form of command, one word through the block, and
the induction over the words. -/

namespace Sys2Proof

/-! ### The decoder by `op` (30_encoding.md rule R31) -/

variable {cw : CommandWord}

theorem decode_of_opField_nop (h : opField cw = 0b00#2) : decode cw = .nop := by
  simp [decode, h]

theorem decode_of_opField_init (h : opField cw = 0b01#2) :
    decode cw = initForm (ucField cw) (usField cw) := by
  simp [decode, h]

theorem decode_of_opField_byte (h : opField cw = 0b10#2) :
    decode cw = byteForm (ucField cw) (usField cw) (dField cw) := by
  simp [decode, h]

theorem decode_of_opField_reserved (h : opField cw = 0b11#2) :
    decode cw = .reserved (lowField cw) := by
  simp [decode, h]

/-- The three operations a host may issue (R34). -/
theorem opField_cases_of_ne_reserved (h : opField cw ≠ 0b11#2) :
    opField cw = 0b00#2 ∨ opField cw = 0b01#2 ∨ opField cw = 0b10#2 := by
  generalize opField cw = op at h ⊢
  revert op
  decide

end Sys2Proof

namespace Sys2Proof.Machine

/-! ### One command word -/

/-- INIT loads the initial value of each unit selected and keeps the other (R32, R42, R53, R64, R66). -/
theorem exec_initForm (uc us : Bool) (s : State) :
    ∃ t, exec (initForm uc us) s = .next t ∧ t.crc = (if uc then 0xFFFF else s.crc) ∧
      t.sum = (if us then 0x00 else s.sum) ∧ t.port = s.port := by
  cases uc <;> cases us <;> exact ⟨_, rfl, rfl, rfl, rfl⟩

/-- BYTE hands its byte to each unit selected and keeps the other (R32, R43, R54, R65, R67). -/
theorem exec_byteForm (uc us : Bool) (d : Byte) (s : State) :
    ∃ t, exec (byteForm uc us d) s = .next t ∧ t.crc = (if uc then crcStep s.crc d else s.crc) ∧
      t.sum = (if us then sumStep s.sum d else s.sum) ∧ t.port = s.port := by
  cases uc <;> cases us <;> exact ⟨_, rfl, rfl, rfl, rfl⟩

/-- A reserved word is refused in every state (R68). -/
theorem exec_decode_of_reserved {cw : CommandWord} (h : opField cw = 0b11#2) (s : State) :
    exec (decode cw) s = .refused (.reservedWord (lowField cw)) := by
  rw [decode_of_opField_reserved h]
  rfl

/-- Any other word completes with the registers of R69, and the host's later items stay. -/
theorem exec_decode_of_ne_reserved {cw : CommandWord} (h : opField cw ≠ 0b11#2) (s : State) :
    ∃ t, exec (decode cw) s = .next t ∧
      t.crc = nextCrc s.crc (opField cw) (ucField cw) (dField cw) ∧
      t.sum = nextSum s.sum (opField cw) (usField cw) (dField cw) ∧ t.port = s.port := by
  obtain hop | hop | hop := opField_cases_of_ne_reserved h
  · rw [decode_of_opField_nop hop]
    exact ⟨s, rfl, by simp [nextCrc, hop], by simp [nextSum, hop], rfl⟩
  · rw [decode_of_opField_init hop]
    simpa [nextCrc, nextSum, hop] using exec_initForm (ucField cw) (usField cw) s
  · rw [decode_of_opField_byte hop]
    simpa [nextCrc, nextSum, hop] using exec_byteForm (ucField cw) (usField cw) (dField cw) s

theorem blockStep_of_reserved {cw : CommandWord} (h : opField cw = 0b11#2) (r : CrcWord × Byte) :
    blockStep r cw = none := if_pos h

theorem blockStep_of_ne_reserved {cw : CommandWord} (h : opField cw ≠ 0b11#2)
    (r : CrcWord × Byte) :
    blockStep r cw = some (nextCrc r.1 (opField cw) (ucField cw) (dField cw),
      nextSum r.2 (opField cw) (usField cw) (dField cw)) := if_neg h

/-! ### Words served one by one -/

/-- Settles O10: an item that is a command without reset is accepted by executing the decoded word. -/
theorem stepExecutesTheDecodedCommand : Obligations.StepExecutesTheDecodedCommand :=
  fun _ _ _ h => step_of_port_cons h

/-- The first of the words presented is the one the next step executes (R26). -/
theorem step_present_cons (cw : CommandWord) (ws : List CommandWord) (s : State) :
    step (present (cw :: ws) s) = exec (decode cw) (present ws s) :=
  stepExecutesTheDecodedCommand _ cw (present ws s).port rfl

/-- Serving a word that completes and then others: the word, then the others (R26). -/
theorem serve_cons_of_next {cw : CommandWord} {s t : State} (h : exec (decode cw) s = .next t)
    (ws : List CommandWord) : serve (cw :: ws) s = serve ws t := by
  have hstep : step (present (cw :: ws) s) = .next (present ws t) :=
    (step_present_cons cw ws s).trans (exec_present h ws)
  exact runSteps_succ hstep ws.length

/-- Serving a reserved word and then others is refused at the reserved word (R68). -/
theorem serve_cons_of_reserved {cw : CommandWord} (h : opField cw = 0b11#2)
    (ws : List CommandWord) (s : State) :
    serve (cw :: ws) s = .refused (.reservedWord (lowField cw)) := by
  have hstep : step (present (cw :: ws) s) = .refused (.reservedWord (lowField cw)) :=
    (step_present_cons cw ws s).trans (exec_decode_of_reserved h _)
  exact runSteps_refused hstep ws.length

/-- Settles O17, by induction on the words: a reserved word ends both the run and the fold, any other brings
both to the same registers. -/
theorem stateAfterWordsIsTheFoldOfTheStepFunction :
    Obligations.StateAfterWordsIsTheFoldOfTheStepFunction := by
  intro ws
  induction ws with
  | nil => exact fun s => ⟨s, rfl, rfl, rfl⟩
  | cons cw ws ih =>
    intro s
    by_cases hop : opField cw = 0b11#2
    · rw [List.foldlM_cons, blockStep_of_reserved hop]
      exact ⟨_, serve_cons_of_reserved hop ws s⟩
    · obtain ⟨t, hexec, hcrc, hsum, hport⟩ := exec_decode_of_ne_reserved hop s
      rw [List.foldlM_cons, blockStep_of_ne_reserved hop, ← hcrc, ← hsum,
        serve_cons_of_next hexec, ← hport]
      exact ih t

end Sys2Proof.Machine

/-! ## Proofs: the fields of a command word (30_encoding.md rules R30, R35)

The fields as numbers, a word as the concatenation of its fields, and words under the two masks of R31. -/

namespace Sys2Proof

variable {cw : CommandWord} {op : BitVec 2} {uc us : Bool} {d : Byte}

theorem opField_toNat (cw : CommandWord) : (opField cw).toNat = cw.toNat / 1024 := by
  have hlt := cw.isLt
  simp only [opField, BitVec.extractLsb'_toNat, Nat.shiftRight_eq_div_pow]
  omega

theorem ucField_toNat (cw : CommandWord) : (ucField cw).toNat = cw.toNat / 512 % 2 :=
  Nat.toNat_testBit cw.toNat 9

theorem usField_toNat (cw : CommandWord) : (usField cw).toNat = cw.toNat / 256 % 2 :=
  Nat.toNat_testBit cw.toNat 8

theorem dField_toNat (cw : CommandWord) : (dField cw).toNat = cw.toNat % 256 := by
  simp [dField, BitVec.extractLsb'_toNat]

/-- The data byte is the word cut to its low eight bits. -/
theorem dField_eq_setWidth (cw : CommandWord) : dField cw = cw.setWidth 8 := by
  apply BitVec.eq_of_toNat_eq
  rw [dField_toNat, BitVec.toNat_setWidth]

theorem toNat_append_eq_add {m n : Nat} (x : BitVec m) (y : BitVec n) :
    (x ++ y).toNat = x.toNat * 2 ^ n + y.toNat := by
  rw [BitVec.toNat_append, ← Nat.shiftLeft_add_eq_or_of_lt y.isLt, Nat.shiftLeft_eq]

theorem formatC_toNat (op : BitVec 2) (uc us : Bool) (d : Byte) :
    (formatC op uc us d).toNat =
      1024 * op.toNat + 512 * uc.toNat + 256 * us.toNat + d.toNat := by
  simp only [formatC, toNat_append_eq_add, BitVec.toNat_ofBool]
  omega

/-- A word is the concatenation of its fields (R30). -/
theorem formatC_fields (cw : CommandWord) :
    formatC (opField cw) (ucField cw) (usField cw) (dField cw) = cw := by
  apply BitVec.eq_of_toNat_eq
  rw [formatC_toNat, opField_toNat, ucField_toNat, usField_toNat, dField_toNat]
  omega

/-- `formatC` and the four fields are inverse to each other. -/
theorem formatC_eq_iff :
    formatC op uc us d = cw ↔
      opField cw = op ∧ ucField cw = uc ∧ usField cw = us ∧ dField cw = d where
  mp := by
    rintro rfl
    simp
  mpr := by
    rintro ⟨rfl, rfl, rfl, rfl⟩
    exact formatC_fields cw

/-- The data byte is added to a word with none (R30). -/
theorem formatC_eq_add (op : BitVec 2) (uc us : Bool) (d : Byte) :
    formatC op uc us d = formatC op uc us 0x00 + d.setWidth 12 := by
  have hlt := (formatC op uc us d).isLt
  have hd := d.isLt
  apply BitVec.eq_of_toNat_eq
  simp only [BitVec.toNat_add, BitVec.toNat_setWidth, formatC_toNat, BitVec.ofNat_eq_ofNat,
    BitVec.toNat_ofNat] at hlt ⊢
  omega

/-- A mask acts on each field by itself. -/
theorem and_formatC (cw : CommandWord) (op : BitVec 2) (uc us : Bool) (d : Byte) :
    cw &&& formatC op uc us d =
      formatC (opField cw &&& op) (ucField cw && uc) (usField cw && us) (dField cw &&& d) := by
  have hop : opField (cw &&& formatC op uc us d) = opField cw &&& opField (formatC op uc us d) :=
    BitVec.extractLsb'_and
  have huc : ucField (cw &&& formatC op uc us d) = (ucField cw && ucField (formatC op uc us d)) :=
    BitVec.getLsbD_and
  have hus : usField (cw &&& formatC op uc us d) = (usField cw && usField (formatC op uc us d)) :=
    BitVec.getLsbD_and
  have hd : dField (cw &&& formatC op uc us d) = dField cw &&& dField (formatC op uc us d) :=
    BitVec.extractLsb'_and
  exact (formatC_eq_iff.mpr ⟨by simp [hop], by simp [huc], by simp [hus], by simp [hd]⟩).symm

/-- The mask of the rows NOP and RESERVED leaves `op` (R31). -/
theorem and_C00_eq (cw : CommandWord) : cw &&& 0xC00 = formatC (opField cw) false false 0x00 := by
  have hmask : (0xC00 : CommandWord) = formatC (BitVec.allOnes 2) false false 0x00 := rfl
  rw [hmask, and_formatC, BitVec.and_allOnes]
  simp

/-- The mask of the other rows leaves `op` and `usel` (R31). -/
theorem and_F00_eq (cw : CommandWord) :
    cw &&& 0xF00 = formatC (opField cw) (ucField cw) (usField cw) 0x00 := by
  have hmask : (0xF00 : CommandWord) = formatC (BitVec.allOnes 2) true true 0x00 := rfl
  rw [hmask, and_formatC, BitVec.and_allOnes]
  simp

/-- Settles O3: the fields as numbers, and the word from its fields. -/
theorem commandWordFieldsByBitNumber : Obligations.CommandWordFieldsByBitNumber := fun cw =>
  ⟨opField_toNat cw, by rw [← ucField_toNat, Bool.toNat_eq_one],
    by rw [← usField_toNat, Bool.toNat_eq_one], dField_toNat cw,
    (formatC_fields cw).symm⟩

/-! ### The encoder (R39) -/

theorem encode_initForm (uc us : Bool) : encode (initForm uc us) = formatC 0b01#2 uc us 0x00 := by
  cases uc <;> cases us <;> rfl

theorem encode_byteForm (uc us : Bool) (d : Byte) :
    encode (byteForm uc us d) = formatC 0b10#2 uc us d := by
  cases uc <;> cases us <;> rfl

@[simp] theorem initForm_wellFormed (uc us : Bool) : (initForm uc us).wellFormed = true := by
  cases uc <;> cases us <;> rfl

@[simp] theorem byteForm_wellFormed (uc us : Bool) (d : Byte) :
    (byteForm uc us d).wellFormed = true := by
  cases uc <;> cases us <;> rfl

theorem encode_decode_of_opField_init (h : opField cw = 0b01#2) :
    encode (decode cw) = formatC 0b01#2 (ucField cw) (usField cw) 0x00 := by
  rw [decode_of_opField_init h, encode_initForm]

theorem encode_decode_of_opField_byte (h : opField cw = 0b10#2) : encode (decode cw) = cw := by
  rw [decode_of_opField_byte h, encode_byteForm, ← h, formatC_fields]

/-- The canonical words of R35: of NOP only zero, of INIT those with no data bit, of BYTE all. -/
theorem encode_decode_eq_self_iff (h : opField cw ≠ 0b11#2) :
    encode (decode cw) = cw ↔
      (opField cw = 0b00#2 → cw = 0x000) ∧ (opField cw = 0b01#2 → dField cw = 0x00) := by
  obtain hop | hop | hop := opField_cases_of_ne_reserved h
  · have hnop : encode (decode cw) = 0x000 := by rw [decode_of_opField_nop hop]; rfl
    rw [hnop, hop, eq_comm]
    simp
  · simp [hop, encode_decode_of_opField_init hop, formatC_eq_iff]
  · simp [hop, encode_decode_of_opField_byte hop]

/-- Settles O1: the encoder's words are `formatC` of their fields, and `formatC` and the fields are inverse to
each other. -/
theorem decodeOfEncodeIsTheCommand : Obligations.DecodeOfEncodeIsTheCommand := by
  refine ⟨⟨rfl, fun uc us => ?_, fun uc us d => ?_⟩, fun i => Machine.decode_encode,
    fun cw => encode_decode_eq_self_iff, fun cw hop => ?_, by decide⟩
  · rw [encode_initForm]
    revert uc us
    decide
  · rw [encode_byteForm, formatC_eq_add]
    congr 1
    revert uc us
    decide
  · rw [encode_decode_of_opField_init hop, and_F00_eq, hop]

/-- Settles O4: the decoder's answer by `op` does not look at the ignored bits (R35). -/
theorem ignoredBitsHaveNoEffect : Obligations.IgnoredBitsHaveNoEffect := by
  refine ⟨fun cw s hop => ?_, fun cw cw' hop hop' huc hus => ?_, fun cw s hop huc hus => ?_,
    by decide⟩
  · rw [decode_of_opField_nop hop]
    exact ⟨rfl, rfl⟩
  · rw [decode_of_opField_init hop, decode_of_opField_init hop', huc, hus]
  · obtain hop | hop := hop
    · rw [decode_of_opField_init hop, huc, hus]
      rfl
    · rw [decode_of_opField_byte hop, huc, hus]
      rfl

end Sys2Proof

/-! ## Proofs: the decode table (30_encoding.md rule R31)

No row looks at the data byte, so a row selects by the sixteen values of `op` and `usel`, and each of them has
256 words. -/

namespace Sys2Proof

variable {cw cw' : CommandWord} {op : BitVec 2} {uc us : Bool}

/-! ### What the words of a row decode to -/

theorem opField_of_and_C00 (h : cw &&& 0xC00 = formatC op false false 0x00) : opField cw = op := by
  rw [and_C00_eq] at h
  simpa using congrArg opField h

theorem fields_of_and_F00 (h : cw &&& 0xF00 = formatC op uc us 0x00) :
    opField cw = op ∧ ucField cw = uc ∧ usField cw = us := by
  rw [and_F00_eq] at h
  exact ⟨by simpa using congrArg opField h, by simpa using congrArg ucField h,
    by simpa using congrArg usField h⟩

theorem decode_of_init_row (h : cw &&& 0xF00 = formatC 0b01#2 uc us 0x00) :
    decode cw = initForm uc us := by
  obtain ⟨hop, rfl, rfl⟩ := fields_of_and_F00 h
  exact decode_of_opField_init hop

theorem decode_of_byte_row (h : cw &&& 0xF00 = formatC 0b10#2 uc us 0x00) :
    decode cw = byteForm uc us (cw.setWidth 8) := by
  obtain ⟨hop, rfl, rfl⟩ := fields_of_and_F00 h
  rw [decode_of_opField_byte hop, dField_eq_setWidth]

/-! ### Rows look at `op` and `usel` only -/

theorem opcodeTable_mask_and_F00 : ∀ r ∈ opcodeTable, 0xF00 &&& r.mask = r.mask := by decide

theorem selects_congr {r : OpcodeRow} (hr : r ∈ opcodeTable) (hop : opField cw = opField cw')
    (huc : ucField cw = ucField cw') (hus : usField cw = usField cw') :
    r.selects cw = r.selects cw' := by
  have hF00 : cw &&& 0xF00 = cw' &&& 0xF00 := by rw [and_F00_eq, and_F00_eq, hop, huc, hus]
  rw [OpcodeRow.selects, OpcodeRow.selects, ← opcodeTable_mask_and_F00 r hr, ← BitVec.and_assoc,
    hF00, BitVec.and_assoc]

theorem opcodeRow_byteForm_eq (uc us : Bool) (d : Byte) :
    opcodeRow (byteForm uc us d) = ⟨formatC 0b10#2 uc us 0x00, 0xF00, 256⟩ := by
  cases uc <;> cases us <;> rfl

/-- A word and the word with its data byte cleared lie in the same row. -/
theorem opcodeRow_decode_eq (cw : CommandWord) :
    opcodeRow (decode cw) =
      opcodeRow (decode (formatC (opField cw) (ucField cw) (usField cw) 0x00)) := by
  by_cases hres : opField cw = 0b11#2
  · rw [decode_of_opField_reserved hres, decode_of_opField_reserved (by simpa using hres)]
    rfl
  obtain hop | hop | hop := opField_cases_of_ne_reserved hres
  · rw [decode_of_opField_nop hop, decode_of_opField_nop (by simpa using hop)]
  · rw [decode_of_opField_init hop, decode_of_opField_init (by simpa using hop)]
    simp
  · rw [decode_of_opField_byte hop, decode_of_opField_byte (by simpa using hop)]
    simp [opcodeRow_byteForm_eq]

/-- The sixteen words with no data bit each select their own row and no other. -/
theorem opcodeTable_filter_formatC : ∀ (op : BitVec 2) (uc us : Bool),
    opcodeTable.filter (fun r => r.selects (formatC op uc us 0x00)) =
      [opcodeRow (decode (formatC op uc us 0x00))] := by
  decide

theorem opcodeTable_filter_selects (cw : CommandWord) :
    opcodeTable.filter (fun r => r.selects cw) = [opcodeRow (decode cw)] := by
  rw [opcodeRow_decode_eq, ← opcodeTable_filter_formatC]
  exact List.filter_congr fun r hr => selects_congr hr (by simp) (by simp) (by simp)

/-! ### The number of words of a row -/

/-- A property of the quotient by `m` holds of `m` numbers for each quotient that has it. -/
theorem countP_range_mul_div (p : Nat → Bool) {m : Nat} (hm : 0 < m) (k : Nat) :
    (List.range (k * m)).countP (fun n => p (n / m)) = m * (List.range k).countP p := by
  induction k with
  | zero => simp
  | succ k ih =>
    have hblock : (List.range m).countP (fun j => p ((k * m + j) / m)) = if p k then m else 0 := by
      have hdiv : ∀ j ∈ List.range m, p ((k * m + j) / m) = p k := fun j hj => by
        rw [Nat.mul_comm, Nat.mul_add_div hm, Nat.div_eq_of_lt (List.mem_range.mp hj), Nat.add_zero]
      rw [List.countP_congr fun j hj => by rw [hdiv j hj]]
      cases p k <;> simp
    rw [Nat.succ_mul, List.range_add, List.countP_append, ih, List.countP_map, List.range_succ,
      List.countP_append, Nat.mul_add]
    congr 1
    exact hblock.trans (by cases hp : p k <;> simp [hp])

/-- A row selects a number's word by its high four bits. -/
theorem selects_ofNat {r : OpcodeRow} (hr : r ∈ opcodeTable) (n : Nat) :
    r.selects (BitVec.ofNat 12 n) = r.selects (BitVec.ofNat 12 (n / 256 * 256)) := by
  apply selects_congr hr
  · apply BitVec.eq_of_toNat_eq
    simp only [opField_toNat, BitVec.toNat_ofNat]
    omega
  · rw [Bool.eq_iff_iff, ← Bool.toNat_eq_one, ← Bool.toNat_eq_one]
    simp only [ucField_toNat, BitVec.toNat_ofNat]
    omega
  · rw [Bool.eq_iff_iff, ← Bool.toNat_eq_one, ← Bool.toNat_eq_one]
    simp only [usField_toNat, BitVec.toNat_ofNat]
    omega

/-- How many of the sixteen values of `op` and `usel` a row selects. -/
theorem opcodeTable_words_eq : ∀ r ∈ opcodeTable,
    256 * (List.range 16).countP (fun q => r.selects (BitVec.ofNat 12 (q * 256))) = r.words := by
  decide

theorem countP_selects_eq_words {r : OpcodeRow} (hr : r ∈ opcodeTable) :
    (List.range 4096).countP (fun n => r.selects (BitVec.ofNat 12 n)) = r.words :=
  calc (List.range 4096).countP (fun n => r.selects (BitVec.ofNat 12 n))
      = (List.range (16 * 256)).countP fun n => r.selects (BitVec.ofNat 12 (n / 256 * 256)) :=
        List.countP_congr fun n _ => by rw [selects_ofNat hr]
    _ = 256 * (List.range 16).countP fun q => r.selects (BitVec.ofNat 12 (q * 256)) :=
        countP_range_mul_div (fun q => r.selects (BitVec.ofNat 12 (q * 256))) (by decide) 16
    _ = r.words := opcodeTable_words_eq r hr

/-- Settles O2: rows by the fields under their mask, and sixteen values of `op` and `usel` to try. -/
theorem decodeTableRowsPartitionTheWords : Obligations.DecodeTableRowsPartitionTheWords :=
  ⟨fun _ =>
    ⟨fun h => decode_of_opField_nop (opField_of_and_C00 h),
      decode_of_init_row (uc := false) (us := false), decode_of_init_row (uc := false) (us := true),
      decode_of_init_row (uc := true) (us := false), decode_of_init_row (uc := true) (us := true),
      decode_of_byte_row (uc := false) (us := false), decode_of_byte_row (uc := false) (us := true),
      decode_of_byte_row (uc := true) (us := false), decode_of_byte_row (uc := true) (us := true),
      fun h => ⟨_, decode_of_opField_reserved (opField_of_and_C00 h)⟩⟩,
    rfl, opcodeTable_filter_selects, fun _ => countP_selects_eq_words⟩

end Sys2Proof

/-! ## Proofs: a placed word is the next command (notes/assumptions/10.md) -/

namespace Sys2Proof.Machine

theorem decodeTableWord_eq_some {nbits w : Nat} {i : Instr} (h : decodeTableWord nbits w = some i) :
    ∃ cw, tableCommandWord nbits w = some cw ∧ decode cw = i :=
  Option.map_eq_some_iff.mp h

/-- Settles O11: the placed word is taken off the port again and executed at the state before. -/
theorem placedTableWordIsTheNextCommand : Obligations.PlacedTableWordIsTheNextCommand := by
  intro s nbits w i h
  obtain ⟨cw, hcw, rfl⟩ := decodeTableWord_eq_some h
  have hport : (s.withFetchWord nbits w).port = PortInput.command cw :: s.port := by
    rw [PortInput.command, ← hcw]
    rfl
  exact stepExecutesTheDecodedCommand _ cw s.port hport

end Sys2Proof.Machine

/-! ## Proofs: a span through the block (30_encoding.md rules R37, R38)

The three expansions of R38 are one list of commands for three choices of units: the INIT of the units, then
a BYTE of each byte of the span. One induction over the span serves them all. -/

namespace Sys2Proof.Machine

/-! ### The state after a span -/

/-- The state with the registers and histories of a span in each unit selected (R15). -/
def afterSpan (uc us : Bool) (span : List Byte) (s : State) : State :=
  { s with
    crc := if uc then crcReg span else s.crc
    sum := if us then sum8 span else s.sum
    histC := if uc then span else s.histC
    histS := if us then span else s.histS }

/-- INIT of the units begins the empty span. -/
theorem exec_initForm_afterSpan (uc us : Bool) (s : State) :
    exec (initForm uc us) s = .next (afterSpan uc us [] s) := by
  cases uc <;> cases us <;> rfl

/-- BYTE of the units adds its byte to the span. -/
theorem exec_byteForm_afterSpan (uc us : Bool) (span : List Byte) (d : Byte) (s : State) :
    exec (byteForm uc us d) (afterSpan uc us span s) = .next (afterSpan uc us (span ++ [d]) s) := by
  unfold afterSpan
  rw [crcReg_concat, sum8_concat]
  cases uc <;> cases us <;> rfl

/-! ### Its commands, as words and as lines -/

/-- The commands that bring a span to the units selected (R38). -/
def spanCommands (uc us : Bool) (span : List Byte) : List Instr :=
  initForm uc us :: span.map (byteForm uc us)

theorem spanCommands_map {α : Type} (f : Instr → α) (uc us : Bool) (span : List Byte) :
    (spanCommands uc us span).map f =
      f (initForm uc us) :: span.map fun d => f (byteForm uc us d) := by
  simp [spanCommands, Function.comp_def]

theorem spanCommands_wellFormed (uc us : Bool) (span : List Byte) :
    ∀ i ∈ spanCommands uc us span, i.wellFormed = true := by
  simp [spanCommands]

theorem crcMacro_eq (span : List Byte) :
    crcMacro span = (spanCommands true false span).map encode :=
  (spanCommands_map encode true false span).symm

theorem sumMacro_eq (span : List Byte) :
    sumMacro span = (spanCommands false true span).map encode :=
  (spanCommands_map encode false true span).symm

theorem bothMacro_eq (span : List Byte) :
    bothMacro span = (spanCommands true true span).map encode :=
  (spanCommands_map encode true true span).symm

theorem spanCommands_words (uc us : Bool) (span : List Byte) :
    (spanCommands uc us span).map encode =
      formatC 0b01#2 uc us 0x00 :: span.map fun d => formatC 0b10#2 uc us 0x00 + d.setWidth 12 := by
  simp only [spanCommands_map, encode_initForm, encode_byteForm, ← formatC_eq_add]

theorem spanCommands_words_length (uc us : Bool) (span : List Byte) :
    ((spanCommands uc us span).map encode).length = span.length + 1 := by
  simp [spanCommands]

theorem crcProgram_eq (span : List Byte) :
    crcProgram span = (spanCommands true false span).map .command ++ [.readCrcOut] := by
  rw [spanCommands_map]
  rfl

theorem sumProgram_eq (span : List Byte) :
    sumProgram span = (spanCommands false true span).map .command ++ [.readSumOut] := by
  rw [spanCommands_map]
  rfl

theorem bothProgram_eq (span : List Byte) :
    bothProgram span =
      (spanCommands true true span).map .command ++ [.readCrcOut, .readSumOut] := by
  rw [spanCommands_map]
  rfl

/-! ### Serving the words -/

theorem serve_byteForm_afterSpan (uc us : Bool) (done rest : List Byte) (s : State) :
    serve (rest.map fun d => encode (byteForm uc us d)) (afterSpan uc us done s) =
      .next (afterSpan uc us (done ++ rest) s) := by
  induction rest generalizing done with
  | nil => rw [List.append_nil]; rfl
  | cons d rest ih =>
    rw [List.map_cons, serve_encode_cons (byteForm_wellFormed uc us d)
      (exec_byteForm_afterSpan uc us done d s), ih, List.append_assoc, List.singleton_append]

/-- The block takes a span from every state (R38). -/
theorem serve_spanCommands (uc us : Bool) (span : List Byte) (s : State) :
    serve ((spanCommands uc us span).map encode) s = .next (afterSpan uc us span s) := by
  rw [spanCommands_map, serve_encode_cons (initForm_wellFormed uc us)
    (exec_initForm_afterSpan uc us s)]
  exact serve_byteForm_afterSpan uc us [] span s

/-- Settles O48: the words field by field, and each call as a read of the state after the span. -/
theorem macroCallsReturnTheFunctions : Obligations.MacroCallsReturnTheFunctions := by
  intro span
  simp only [callCrc16, callChecksum, callBoth, crcMacro_eq, sumMacro_eq, bothMacro_eq,
    serve_spanCommands]
  exact ⟨spanCommands_words true false span, spanCommands_words false true span,
    spanCommands_words true true span, spanCommands_words_length true false span,
    spanCommands_words_length false true span, spanCommands_words_length true true span,
    fun _ => ⟨fun _ => rfl, rfl, fun _ => rfl⟩⟩

/-! ### Issuing the lines -/

theorem issue_command_cons {i : Instr} (hi : i.wellFormed = true) {s t : State}
    (h : exec i s = .next t) (x : CrcWord) (ls : List ProgramLine) :
    issue x (.command i :: ls) s = issue x ls t := by
  have hserve : serve [encode i] s = .next t := serve_encode_cons hi h []
  simp only [issue, hserve]

/-- Command lines lead where their words lead, and the lines after them go on from there (R37). -/
theorem issue_commands_append {is : List Instr} (his : ∀ i ∈ is, i.wellFormed = true) {s t : State}
    (h : serve (is.map encode) s = .next t) (x : CrcWord) (ls : List ProgramLine) :
    issue x (is.map .command ++ ls) s = issue x ls t := by
  induction is generalizing s with
  | nil => cases h; rfl
  | cons i is ih =>
    obtain ⟨hi, his⟩ := List.forall_mem_cons.mp his
    obtain ⟨u, hu⟩ := exec_next_of_wellFormed hi s
    rw [List.map_cons, serve_encode_cons hi hu] at h
    rw [List.map_cons, List.cons_append, issue_command_cons hi hu]
    exact ih his h

/-- The READs after a span read the state after it. -/
theorem issue_spanCommands_append (uc us : Bool) (span : List Byte) (s : State) (x : CrcWord)
    (ls : List ProgramLine) :
    issue x ((spanCommands uc us span).map .command ++ ls) s =
      issue x ls (afterSpan uc us span s) :=
  issue_commands_append (spanCommands_wellFormed uc us span) (serve_spanCommands uc us span s) x ls

/-- Settles O49: the commands lead to the state after the span, and the READs read it. -/
theorem macroProgramsReadTheFunctions : Obligations.MacroProgramsReadTheFunctions := by
  intro x span s
  rw [crcProgram_eq, sumProgram_eq, bothProgram_eq, issue_spanCommands_append,
    issue_spanCommands_append, issue_spanCommands_append]
  exact ⟨⟨_, rfl, rfl⟩, ⟨_, rfl, rfl⟩, ⟨_, rfl, rfl⟩⟩

end Sys2Proof.Machine

/-! ## Proofs: the arithmetic of the SUM unit (40_checksum.md rules R40, R41, R44, R45)

`sum_step` is the addition of the ring of 8-bit words and `SUM8` the sum of a list in it, so the laws of R44
and R45 are laws of that ring. -/

namespace Sys2Proof.Machine

/-! ### `sum_step` -/

theorem sumStep_eq_add (s d : Byte) : sumStep s d = s + d := rfl

theorem sumStep_eq_ofNat (s d : Byte) : sumStep s d = BitVec.ofNat 8 (s.toNat + d.toNat) := rfl

/-- The carry out of bit 7 is bit 8 of the 9-bit sum, which is dropped (R41). -/
theorem sumStep_eq_low_bits (s d : Byte) :
    sumStep s d = (s.setWidth 9 + d.setWidth 9).setWidth 8 := by
  rw [BitVec.setWidth_add _ _ (by decide), BitVec.setWidth_setWidth_of_le s (by decide),
    BitVec.setWidth_setWidth_of_le d (by decide), BitVec.setWidth_eq, BitVec.setWidth_eq,
    sumStep_eq_add]

/-- Settles O32: 8-bit words under `sum_step` are a commutative group. -/
theorem sumStepLaws : Obligations.SumStepLaws :=
  ⟨add_zero, add_right_comm, add_comm, fun d => (Equiv.addRight d).bijective,
    fun s => (Equiv.addLeft s).bijective⟩

/-! ### `SUM8` -/

theorem sum8_cons (d : Byte) (span : List Byte) : sum8 (d :: span) = d + sum8 span := by
  simp only [sum8, List.map_cons, List.sum_cons, BitVec.ofNat_add, BitVec.ofNat_toNat,
    BitVec.setWidth_eq]

/-- Reducing modulo 256 once at the end or at every byte comes to the same (R41). -/
theorem sum8_eq_sum (span : List Byte) : sum8 span = span.sum := by
  induction span with
  | nil => rfl
  | cons d span ih => rw [sum8_cons, List.sum_cons, ih]

theorem sum8_eq_foldl (span : List Byte) : sum8 span = span.foldl sumStep 0x00 := by
  rw [sum8_eq_sum, List.sum_eq_foldl]
  rfl

theorem sum8_append (a b : List Byte) : sum8 (a ++ b) = sum8 a + sum8 b := by
  simp only [sum8_eq_sum, List.sum_append]

theorem sum8_singleton (d : Byte) : sum8 [d] = d := by
  rw [sum8_eq_sum, List.sum_singleton]

theorem sum8_perm {a b : List Byte} (h : a.Perm b) : sum8 a = sum8 b := by
  rw [sum8_eq_sum, sum8_eq_sum, h.sum_eq]

theorem sum8_replicate (n : Nat) (d : Byte) : sum8 (List.replicate n d) = n * d := by
  rw [sum8_eq_sum, List.sum_replicate, nsmul_eq_mul]

/-- Settles O31: the sum of naturals taken modulo 256 is the sum in the ring, and that is the fold. -/
theorem sumStepFoldIsTheSumModulo256 : Obligations.SumStepFoldIsTheSumModulo256 :=
  ⟨fun s d => ⟨BitVec.toNat_add s d, sumStep_eq_low_bits s d⟩, sum8_toNat, sum8_nil,
    sum8_eq_foldl, sum8_concat⟩

/-- Settles O33: `SUM8` is additive over concatenation, and each law is then one of the ring. -/
theorem checksumLawsOverSpans : Obligations.ChecksumLawsOverSpans := by
  refine ⟨fun a b => ?concatenation, fun a b => sum8_perm, fun a b n => ?zeros,
    ⟨fun d => ?period, ?ones⟩, fun a b d d' hne => ?change, fun a b c d e k => ?cancel⟩
  case concatenation => rw [← sumStep_eq_ofNat, sumStep_eq_add, sum8_append]
  case zeros =>
    have hzeros : sum8 (List.replicate n 0x00) = 0 := by rw [sum8_replicate]; exact mul_zero _
    rw [sum8_append, sum8_append, sum8_append, hzeros, add_zero]
  case period =>
    have h256 : ((256 : Nat) : Byte) = 0 := rfl
    rw [sum8_replicate, h256]
    exact zero_mul d
  case ones => rw [sum8_replicate]; rfl
  case change =>
    simpa only [sum8_append, sum8_singleton, ne_eq, add_left_inj, add_right_inj] using hne
  case cancel =>
    simp only [sum8_append, sum8_singleton]
    abel

end Sys2Proof.Machine

/-! ## Proofs: the commands of the SUM unit (40_checksum.md rules R42, R43) -/

namespace Sys2Proof.Machine

theorem exec_initS (s : State) : exec .initS s = .next (initSum s) := rfl

theorem exec_byteS (d : Byte) (s : State) : exec (.byteS d) s = .next (absorbSum d s) := rfl

/-- Settles O21: the row of INIT.S, and the update `initSum`. -/
theorem initSumInitialisesOnlyTheSumUnit : Obligations.InitSumInitialisesOnlyTheSumUnit :=
  ⟨fun _ => decode_of_init_row (uc := false) (us := true), encode_initForm false true,
    fun s => ⟨exec_initS s, exec_initS (initSum s), sum8_nil.symm⟩⟩

/-- A zero byte counts as a byte of the span and leaves the sum (R43). -/
theorem absorbSum_zero (s : State) :
    absorbSum 0x00 s = { s with histS := s.histS ++ [0x00] } :=
  state_ext rfl (add_zero s.sum) rfl rfl rfl

/-- Settles O22: the row of BYTE.S, and the update `absorbSum`. -/
theorem byteSumAddsModulo256 : Obligations.ByteSumAddsModulo256 := by
  refine ⟨fun _ => decode_of_byte_row (uc := false) (us := true),
    formatC_eq_add 0b10#2 false true, fun d s => ?_, fun s => ?_, by decide⟩
  · rw [exec_byteS, ← sumStep_eq_ofNat]
    rfl
  · rw [exec_byteS, absorbSum_zero]

end Sys2Proof.Machine

/-! ## Proofs: a span among other inputs (40_checksum.md rule R46, 43_host_protocol.md rule R70)

What a unit holds is followed through the inputs one by one: each adds the byte it hands to the unit, if any. -/

namespace Sys2Proof.Machine

/-- A run takes the inputs in order, and a unit that holds a span holds it with the bytes they hand to the
unit added, where each input by itself does so. -/
theorem runSteps_extends_span {Holds : List Byte → State → Prop} {byte : PortInput → Option Byte}
    (hwithPort : ∀ {bs s}, Holds bs s → ∀ ps, Holds bs { s with port := ps })
    {ps : List PortInput} (haccept : ∀ p ∈ ps, ∀ {bs s}, Holds bs s →
      ∃ t, accept p s = .next t ∧ t.port = s.port ∧ Holds (bs ++ (byte p).toList) t)
    {bs : List Byte} {s : State} (hs : Holds bs s) {rest : List PortInput}
    (hport : s.port = ps ++ rest) :
    ∃ t, runSteps ps.length s = .next t ∧ t.port = rest ∧ Holds (bs ++ ps.filterMap byte) t := by
  induction ps generalizing bs s with
  | nil => exact ⟨s, rfl, hport, by simpa using hs⟩
  | cons p ps ih =>
    obtain ⟨hp, hps⟩ := List.forall_mem_cons.mp haccept
    obtain ⟨u, hu, huport, hub⟩ := hp (hwithPort hs (ps ++ rest))
    obtain ⟨t, ht, htport, htb⟩ := ih hps hub huport
    refine ⟨t, (runSteps_succ ((step_of_port_cons hport).trans hu) ps.length).trans ht, htport, ?_⟩
    rw [List.filterMap_cons]
    cases hb : byte p <;> simpa [hb] using htb

/-- The SUM unit holds a span: its register and its history are those of the span (R15). -/
def HoldsSumSpan (bs : List Byte) (s : State) : Prop := s.sum = sum8 bs ∧ s.histS = bs

namespace HoldsSumSpan

variable {bs : List Byte} {s : State}

theorem withPort (h : HoldsSumSpan bs s) (ps : List PortInput) :
    HoldsSumSpan bs { s with port := ps } := h

theorem initSum (s : State) : HoldsSumSpan [] (initSum s) := ⟨sum8_nil.symm, rfl⟩

theorem absorbSum (h : HoldsSumSpan bs s) (d : Byte) :
    HoldsSumSpan (bs ++ [d]) (absorbSum d s) := by
  obtain ⟨hsum, hhist⟩ := h
  exact ⟨by rw [absorbSum_sum, hsum, sum8_concat], by rw [absorbSum_histS, hhist]⟩

/-- INIT of the CRC unit or of none leaves the span (R18). -/
theorem exec_initForm (h : HoldsSumSpan bs s) (uc : Bool) :
    ∃ t, exec (initForm uc false) s = .next t ∧ t.port = s.port ∧ HoldsSumSpan bs t := by
  cases uc <;> exact ⟨_, rfl, rfl, h⟩

/-- BYTE adds its byte to the span where it selects the SUM unit (R32). -/
theorem exec_byteForm (h : HoldsSumSpan bs s) (uc us : Bool) (d : Byte) :
    ∃ t, exec (byteForm uc us d) s = .next t ∧ t.port = s.port ∧
      HoldsSumSpan (bs ++ if us then [d] else []) t := by
  cases us with
  | false =>
    have hnone : HoldsSumSpan (bs ++ []) s := by rwa [List.append_nil]
    cases uc <;> exact ⟨_, rfl, rfl, hnone⟩
  | true => cases uc <;> exact ⟨_, rfl, rfl, h.absorbSum d⟩

/-- A word that is not reserved and does not initialise the SUM unit adds the byte it hands to the unit. -/
theorem exec_decode (h : HoldsSumSpan bs s) {cw : CommandWord} (hres : opField cw ≠ 0b11#2)
    (hinit : opField cw = 0b01#2 → usField cw = false) :
    ∃ t, exec (decode cw) s = .next t ∧ t.port = s.port ∧
      HoldsSumSpan (bs ++ (PortInput.command cw).sumByte.toList) t := by
  obtain hop | hop | hop := opField_cases_of_ne_reserved hres
  · rw [decode_of_opField_nop hop]
    exact ⟨s, rfl, rfl, by simpa [PortInput.command, PortInput.sumByte, hop] using h⟩
  · rw [decode_of_opField_init hop, hinit hop]
    simpa [PortInput.command, PortInput.sumByte, hop] using h.exec_initForm (ucField cw)
  · rw [decode_of_opField_byte hop]
    simpa [PortInput.command, PortInput.sumByte, hop, apply_ite] using
      h.exec_byteForm (ucField cw) (usField cw) (dField cw)

/-- An input that leaves the SUM unit's span alone adds the byte it hands to the unit (R70). -/
theorem accept (h : HoldsSumSpan bs s) {p : PortInput} (hp : p.keepsSumSpan = true) :
    ∃ t, accept p s = .next t ∧ t.port = s.port ∧ HoldsSumSpan (bs ++ p.sumByte.toList) t := by
  obtain ⟨reset, cw⟩ := p
  cases reset with
  | true => cases hp
  | false =>
    cases cw with
    | none => exact ⟨s, rfl, rfl, by simpa [PortInput.sumByte] using h⟩
    | some cw =>
      obtain ⟨hres, hinit⟩ :
          opField cw ≠ 0b11#2 ∧ (opField cw = 0b01#2 → usField cw = false) := by
        simpa [PortInput.keepsSumSpan, imp_iff_not_or] using hp
      exact h.exec_decode hres hinit

end HoldsSumSpan

/-- A word that initialises the SUM unit makes it hold the empty span (R42, R64). -/
theorem exec_decode_holdsSumSpan_nil {cw : CommandWord}
    (h : decode cw = .initS ∨ decode cw = .initCS) (s : State) :
    ∃ t, exec (decode cw) s = .next t ∧ t.port = s.port ∧ HoldsSumSpan [] t := by
  obtain h | h := h <;> rw [h]
  · exact ⟨_, rfl, rfl, .initSum s⟩
  · exact ⟨_, rfl, rfl, .initSum (initCrc s)⟩

/-- Settles O47: the INIT makes the unit hold the empty span, and each input adds its byte. -/
theorem sumUnitComputesTheChecksumOfItsBytes :
    Obligations.SumUnitComputesTheChecksumOfItsBytes := by
  intro s cw ps rest hinit hport hps
  obtain ⟨u, hu, huport, hub⟩ := exec_decode_holdsSumSpan_nil hinit { s with port := ps ++ rest }
  have hstep : step s = .next u :=
    (stepExecutesTheDecodedCommand s cw (ps ++ rest) hport).trans hu
  obtain ⟨t, ht, htport, hsum, hhist⟩ := runSteps_extends_span (Holds := HoldsSumSpan)
    (byte := PortInput.sumByte) .withPort (fun p hp _ _ h => h.accept (hps p hp)) hub huport
  exact ⟨t, (runSteps_succ hstep ps.length).trans ht, htport, hhist, hsum⟩

end Sys2Proof.Machine

/-! ## Proofs: the laws of `crc_step` (41_crc16.md rules R51, R52, R54, R57, R58)

`crc_step` is XOR-linear because one shift is, and the low byte of the register is only moved up: the rest
is the table entry of the XOR of the top byte and the data byte. -/

namespace Sys2Proof.Machine

/-! ### The shift, iterated -/

theorem crcShifts_succ (n : Nat) (t : CrcWord) : crcShifts (n + 1) t = crcShift (crcShifts n t) :=
  crcShifts_add n 1 t

@[simp] theorem crcShifts_zero_word (n : Nat) : crcShifts n 0 = 0 := by
  induction n with
  | zero => rfl
  | succ n ih => rw [crcShifts_succ, ih]; rfl

@[simp] theorem crcShifts_eq_zero_iff (n : Nat) (t : CrcWord) : crcShifts n t = 0 ↔ t = 0 :=
  (crcShifts_injective n).eq_iff' (crcShifts_zero_word n)

/-- Settles O34: `t k` is `k` iterations of the shift. -/
theorem crcStepIsEightShiftIterations : Obligations.CrcStepIsEightShiftIterations :=
  ⟨fun c d => ⟨fun k => crcShifts k (c ^^^ (d.setWidth 16 <<< 8)), rfl,
    fun k _ => crcShifts_succ k _, rfl⟩, by decide⟩

/-! ### Linearity and the table form -/

/-- Linearity over XOR (R57). -/
theorem crcStep_xor (a b : CrcWord) (d e : Byte) :
    crcStep (a ^^^ b) (d ^^^ e) = crcStep a d ^^^ crcStep b e := by
  simp only [crcStep, ← crcShifts_xor, BitVec.setWidth_xor, BitVec.shiftLeft_xor_distrib]
  ac_rfl

theorem crcStep_zero_zero : crcStep 0x0000 0x00 = 0x0000 := rfl

/-- The register part and the byte part (R57). -/
theorem crcStep_eq_xor (c : CrcWord) (d : Byte) : crcStep c d = crcStep c 0x00 ^^^ crcStep 0x0000 d := by
  rw [← crcStep_xor]
  simp

/-- The byte below the top one moves up (R52 c). -/
theorem setWidth_loByte_shiftLeft (c : CrcWord) : (loByte c).setWidth 16 <<< 8 = c <<< 8 := by
  ext i hi
  simp [loByte]
  grind

theorem eq_hiByte_xor_loByte (c : CrcWord) :
    c = (hiByte c).setWidth 16 <<< 8 ^^^ (loByte c).setWidth 16 := by
  rw [← joinBytes_eq_xor, joinBytes_hiByte_loByte]

/-- The shape of the table form: the low byte moves up, the top byte only meets the data byte (R52 c). -/
theorem crcStep_eq_shiftLeft_xor (c : CrcWord) (d : Byte) :
    crcStep c d = c <<< 8 ^^^ crcStep 0x0000 (hiByte c ^^^ d) :=
  calc crcStep c d
      = crcStep ((loByte c).setWidth 16 ^^^ (hiByte c).setWidth 16 <<< 8) d := by
        rw [BitVec.xor_comm, ← eq_hiByte_xor_loByte]
    _ = crcShifts 8 ((loByte c).setWidth 16) ^^^ crcStep 0x0000 (hiByte c ^^^ d) := by
        simp only [crcStep, ← crcShifts_xor, BitVec.setWidth_xor, BitVec.shiftLeft_xor_distrib]
        simp [BitVec.xor_assoc]
    _ = c <<< 8 ^^^ crcStep 0x0000 (hiByte c ^^^ d) := by
        rw [crcShifts_eight_low, setWidth_loByte_shiftLeft]

/-- The printed table holds the step from the zero register (R52 c). -/
theorem crcTable_getElem? : ∀ i : Byte, crcTable[i.toNat]? = some (crcStep 0x0000 i) := by
  decide

/-- A byte equal to the register's top byte moves the low byte up (R54). -/
theorem crcStep_hiByte (c : CrcWord) : crcStep c (hiByte c) = c <<< 8 := by
  rw [crcStep_eq_shiftLeft_xor, BitVec.xor_self]
  exact BitVec.xor_zero

/-- A register that a zero byte leaves is fixed by its top byte: nothing but the table entry reaches the low
byte. -/
theorem loByte_of_crcStep_zero_byte_eq {c : CrcWord} (h : crcStep c 0x00 = c) :
    loByte c = loByte (crcStep 0x0000 (hiByte c)) := by
  have hshift : loByte (c <<< 8) = 0x00 := by
    ext i hi
    simp [loByte]
    omega
  calc loByte c
      = loByte (crcStep c 0x00) := by rw [h]
    _ = loByte (c <<< 8) ^^^ loByte (crcStep 0x0000 (hiByte c ^^^ 0x00)) := by
        rw [crcStep_eq_shiftLeft_xor]
        exact BitVec.extractLsb'_xor
    _ = loByte (crcStep 0x0000 (hiByte c)) := by
        rw [hshift]
        simp

/-- A zero byte leaves exactly the registers of R54. -/
theorem crcStep_zero_byte_eq_self_iff (c : CrcWord) :
    crcStep c 0x00 = c ↔ c = 0x0000 ∨ c = 0xF01F := by
  constructor
  · intro h
    have hc : joinBytes (hiByte c) (loByte (crcStep 0x0000 (hiByte c))) = c := by
      rw [← loByte_of_crcStep_zero_byte_eq h, joinBytes_hiByte_loByte]
    have htop : ∀ hi : Byte,
        crcStep (joinBytes hi (loByte (crcStep 0x0000 hi))) 0x00 =
          joinBytes hi (loByte (crcStep 0x0000 hi)) → hi = 0x00 ∨ hi = 0xF0 := by decide +kernel
    rw [← hc] at h ⊢
    exact (htop (hiByte c) h).imp (fun hi => by rw [hi]; rfl) (fun hi => by rw [hi]; rfl)
  · rintro (rfl | rfl) <;> decide

/-! ### The bit-serial form -/

theorem crcBit_eq (c : CrcWord) (b : Bool) : crcBit c b = crcShift c ^^^ crcFeedback b := by
  have hfeedback : crcBit c b = c <<< 1 ^^^ crcFeedback (c.getLsbD 15 ^^ b) := by
    unfold crcBit crcFeedback
    split
    · rfl
    · exact BitVec.xor_zero.symm
  rw [hfeedback, crcFeedback_xor, crcShift_eq, BitVec.xor_assoc]

@[simp] theorem crcBit_false (c : CrcWord) : crcBit c false = crcShift c := by
  rw [crcBit_eq]
  exact BitVec.xor_zero

theorem crcBit_xor (a b : CrcWord) (x y : Bool) :
    crcBit (a ^^^ b) (x ^^ y) = crcBit a x ^^^ crcBit b y := by
  simp only [crcBit_eq, crcShift_xor, crcFeedback_xor]
  ac_rfl

/-- The register after the first `n` bits of a stream, one at a time (R52 a). -/
def absorbBits (f : Nat → Bool) (n : Nat) (c : CrcWord) : CrcWord :=
  (List.range n).foldl (fun c i => crcBit c (f i)) c

section AbsorbBits

variable {f g : Nat → Bool} {n : Nat}

@[simp] theorem absorbBits_zero (f : Nat → Bool) (c : CrcWord) : absorbBits f 0 c = c := rfl

theorem absorbBits_succ (f : Nat → Bool) (n : Nat) (c : CrcWord) :
    absorbBits f (n + 1) c = crcBit (absorbBits f n c) (f n) := by
  simp [absorbBits, List.range_succ]

theorem absorbBits_add (f : Nat → Bool) (m n : Nat) (c : CrcWord) :
    absorbBits f (m + n) c = absorbBits (fun i => f (m + i)) n (absorbBits f m c) := by
  induction n with
  | zero => rfl
  | succ n ih => rw [← Nat.add_assoc, absorbBits_succ, absorbBits_succ, ih]

theorem absorbBits_congr (h : ∀ i < n, f i = g i) (c : CrcWord) :
    absorbBits f n c = absorbBits g n c := by
  induction n with
  | zero => rfl
  | succ n ih =>
    rw [absorbBits_succ, absorbBits_succ, ih fun i hi => h i (Nat.lt_succ_of_lt hi),
      h n (Nat.lt_succ_self n)]

/-- Zero bits only shift. -/
theorem absorbBits_of_false (h : ∀ i < n, f i = false) (c : CrcWord) :
    absorbBits f n c = crcShifts n c := by
  induction n with
  | zero => rfl
  | succ n ih =>
    rw [absorbBits_succ, ih fun i hi => h i (Nat.lt_succ_of_lt hi), h n (Nat.lt_succ_self n),
      crcBit_false, crcShifts_succ]

theorem absorbBits_xor (f g : Nat → Bool) (n : Nat) (a b : CrcWord) :
    absorbBits (fun i => f i ^^ g i) n (a ^^^ b) = absorbBits f n a ^^^ absorbBits g n b := by
  induction n with
  | zero => rfl
  | succ n ih => simp only [absorbBits_succ, ih, crcBit_xor]

/-- Absorbing the top `n` bits of a word one at a time is XORing the word in at once and shifting, but for the
bits not yet absorbed, which move up unreduced. -/
theorem absorbBits_word (w c : CrcWord) (hn : n ≤ 16) :
    absorbBits (fun i => w.getLsbD (15 - i)) n c = crcShifts n (c ^^^ w) ^^^ w <<< n := by
  induction n with
  | zero => simp [crcShifts]
  | succ n ih =>
    have hout : (w <<< n).getLsbD 15 = w.getLsbD (15 - n) := by
      have hle : ¬ 15 < n := by omega
      simp only [BitVec.getLsbD_shiftLeft, hle]
      simp
    calc absorbBits (fun i => w.getLsbD (15 - i)) (n + 1) c
        = crcBit (crcShifts n (c ^^^ w) ^^^ w <<< n) (w.getLsbD (15 - n)) := by
          rw [absorbBits_succ, ih (by omega)]
      _ = crcShift (crcShifts n (c ^^^ w)) ^^^ (w <<< n) <<< 1 ^^^
            (crcFeedback (w.getLsbD (15 - n)) ^^^ crcFeedback (w.getLsbD (15 - n))) := by
          rw [crcBit_eq, crcShift_xor, crcShift_eq (w <<< n), hout]
          ac_rfl
      _ = crcShifts (n + 1) (c ^^^ w) ^^^ w <<< (n + 1) := by
          rw [BitVec.xor_self, crcShifts_succ, BitVec.shiftLeft_add]
          exact BitVec.xor_zero

end AbsorbBits

/-- A byte's bits one at a time, bit 7 first. -/
theorem crcStepSerial_eq_absorbBits (c : CrcWord) (d : Byte) :
    crcStepSerial c d = absorbBits (fun i => d.getLsbD (7 - i)) 8 c := rfl

/-- The top byte of a word has its bits eight places up. -/
theorem getLsbD_setWidth_shiftLeft_eight (d : Byte) {i : Nat} (hi : i < 8) :
    (d.setWidth 16 <<< 8).getLsbD (15 - i) = d.getLsbD (7 - i) := by
  have hsub : 15 - i = 7 - i + 8 := by omega
  have hlt : 7 - i + 8 < 16 := by omega
  simp [hsub, hlt]

/-- The bit-serial form is `crc_step`: the byte is the top byte of the word absorbed (R52 a, b). -/
theorem crcStepSerial_eq_crcStep (c : CrcWord) (d : Byte) : crcStepSerial c d = crcStep c d :=
  calc crcStepSerial c d
      = absorbBits (fun i => (d.setWidth 16 <<< 8).getLsbD (15 - i)) 8 c := by
        rw [crcStepSerial_eq_absorbBits]
        exact absorbBits_congr (fun i hi => (getLsbD_setWidth_shiftLeft_eight d hi).symm) c
    _ = crcStep c d ^^^ (d.setWidth 16 <<< 8) <<< 8 := absorbBits_word _ c (by decide)
    _ = crcStep c d := by
        rw [← BitVec.shiftLeft_add]
        simp

/-- The table form is `crc_step` (R52 c). -/
theorem crcStepTable_eq_crcStep (c : CrcWord) (d : Byte) : crcStepTable c d = crcStep c d := by
  rw [crcStepTable, List.getD_eq_getElem?_getD, crcTable_getElem?, crcStep_eq_shiftLeft_xor c d]
  rfl

/-- Settles O35: both forms, and the table entry by entry. -/
theorem crcStepFormsAgree : Obligations.CrcStepFormsAgree :=
  ⟨crcStepSerial_eq_crcStep, crcStepTable_eq_crcStep, by decide +kernel, crcTable_getElem?⟩

/-! ### Bijections -/

/-- XORing the byte in and shifting lose nothing of the register. -/
theorem crcStep_injective_register (d : Byte) : Function.Injective fun c => crcStep c d :=
  (crcShifts_injective 8).comp fun _ _ => (BitVec.xor_left_inj _).mp

theorem joinBytes_injective : Function.Injective fun p : Byte × Byte => joinBytes p.1 p.2 :=
  fun p q h => Prod.ext (by simpa using congrArg hiByte h) (by simpa using congrArg loByte h)

theorem crcStep_crcStep_bijective (c : CrcWord) :
    Function.Bijective fun p : Byte × Byte => crcStep (crcStep c p.1) p.2 := by
  constructor
  · intro p q h
    simp only [crcStep_crcStep] at h
    exact joinBytes_injective ((BitVec.xor_right_inj _).mp (crcShifts_injective 16 h))
  · intro v
    obtain ⟨d, e, hde⟩ := exists_crcStep_crcStep_eq c v
    exact ⟨(d, e), hde⟩

/-- Two different bytes followed by the same byte are two different pairs. -/
theorem crcStep_injective_byte (c : CrcWord) : Function.Injective fun d => crcStep c d :=
  fun d e h => congrArg Prod.fst
    ((crcStep_crcStep_bijective c).injective (a₁ := (d, 0x00)) (a₂ := (e, 0x00))
      (congrArg (crcStep · 0x00) h))

/-- Settles O37: an injection of the 65536 register values into themselves is a bijection, and two bytes are a
word put through sixteen shifts. -/
theorem crcStepBijections : Obligations.CrcStepBijections :=
  ⟨fun d => Finite.injective_iff_bijective.mp (crcStep_injective_register d),
    crcStep_injective_byte, crcStep_crcStep_bijective,
    (crcStep_crcStep_bijective Config.crcInit).existsUnique, by decide +kernel⟩

end Sys2Proof.Machine

/-! ## Proofs: the commands of the CRC unit, and a span among other inputs (41_crc16.md rules R53, R54, R62,
43_host_protocol.md rule R70) -/

namespace Sys2Proof.Machine

/-! ### INIT.C and BYTE.C -/

theorem exec_initC (s : State) : exec .initC s = .next (initCrc s) := rfl

theorem exec_byteC (d : Byte) (s : State) : exec (.byteC d) s = .next (absorbCrc d s) := rfl

/-- Settles O23: the row of INIT.C, and the update `initCrc`. -/
theorem initCrcInitialisesOnlyTheCrcUnit : Obligations.InitCrcInitialisesOnlyTheCrcUnit :=
  ⟨fun _ => decode_of_init_row (uc := true) (us := false), encode_initForm true false,
    fun s => ⟨exec_initC s, exec_initC (initCrc s), fun _ => ⟨rfl, rfl⟩⟩⟩

/-- Settles O24: the row of BYTE.C, the update `absorbCrc`, and the laws of `crc_step`. -/
theorem byteCrcAppliesCrcStep : Obligations.ByteCrcAppliesCrcStep :=
  ⟨fun _ => decode_of_byte_row (uc := true) (us := false), formatC_eq_add 0b10#2 true false,
    exec_byteC, crcStep_zero_byte_eq_self_iff, crcStep_hiByte, by decide⟩

/-! ### The commands that write the CRC unit -/

theorem writesCrc_initForm_iff (uc us : Bool) : WritesCrc (initForm uc us) ↔ uc = true := by
  cases uc <;> cases us <;> simp [WritesCrc, initForm]

theorem writesCrc_byteForm_iff (uc us : Bool) (d : Byte) :
    WritesCrc (byteForm uc us d) ↔ uc = true := by
  cases uc <;> cases us <;> simp [WritesCrc, byteForm]

/-- The words that write the CRC unit are the INIT and BYTE words that select it (R32). -/
theorem writesCrc_decode_iff {cw : CommandWord} (hres : opField cw ≠ 0b11#2) :
    WritesCrc (decode cw) ↔ (opField cw = 0b01#2 ∨ opField cw = 0b10#2) ∧ ucField cw = true := by
  obtain hop | hop | hop := opField_cases_of_ne_reserved hres
  · simp [decode_of_opField_nop hop, WritesCrc, hop]
  · simp [decode_of_opField_init hop, writesCrc_initForm_iff, hop]
  · simp [decode_of_opField_byte hop, writesCrc_byteForm_iff, hop]

/-! ### A span among other inputs -/

/-- The CRC unit holds a span: its register and its history are those of the span (R15). -/
def HoldsCrcSpan (bs : List Byte) (s : State) : Prop := s.crc = crcReg bs ∧ s.histC = bs

namespace HoldsCrcSpan

variable {bs : List Byte} {s t : State}

theorem withPort (h : HoldsCrcSpan bs s) (ps : List PortInput) :
    HoldsCrcSpan bs { s with port := ps } := h

theorem initCrc (s : State) : HoldsCrcSpan [] (initCrc s) := ⟨crcReg_nil.symm, rfl⟩

theorem absorbCrc (h : HoldsCrcSpan bs s) (d : Byte) :
    HoldsCrcSpan (bs ++ [d]) (absorbCrc d s) := by
  obtain ⟨hcrc, hhist⟩ := h
  exact ⟨by rw [absorbCrc_crc, hcrc, crcReg_concat], by rw [absorbCrc_histC, hhist]⟩

/-- A command that does not write the CRC unit leaves the span (R18). -/
theorem of_not_writesCrc (h : HoldsCrcSpan bs s) {i : Instr} (hi : ¬ WritesCrc i)
    (he : exec i s = .next t) : HoldsCrcSpan bs t := by
  obtain ⟨hcrc, hhist⟩ := (exec_writesCrc_or_frame he).resolve_left hi
  rwa [HoldsCrcSpan, hcrc, hhist]

/-- BYTE adds its byte to the span where it selects the CRC unit (R32). -/
theorem of_byteForm (h : HoldsCrcSpan bs s) {us : Bool} {d : Byte}
    (he : exec (byteForm true us d) s = .next t) : HoldsCrcSpan (bs ++ [d]) t := by
  cases us <;> cases he <;> exact h.absorbCrc d

/-- A word that is not reserved and does not initialise the CRC unit adds the byte it hands to the unit. -/
theorem exec_decode (h : HoldsCrcSpan bs s) {cw : CommandWord} (hres : opField cw ≠ 0b11#2)
    (hinit : opField cw = 0b01#2 → ucField cw = false) :
    ∃ t, exec (decode cw) s = .next t ∧ t.port = s.port ∧
      HoldsCrcSpan (bs ++ (PortInput.command cw).crcByte.toList) t := by
  obtain ⟨t, he, -, -, hport⟩ := exec_decode_of_ne_reserved hres s
  refine ⟨t, he, hport, ?_⟩
  by_cases hbyte : opField cw = 0b10#2 ∧ ucField cw = true
  · obtain ⟨hop, huc⟩ := hbyte
    rw [decode_of_opField_byte hop, huc] at he
    simpa [PortInput.command, PortInput.crcByte, hop, huc] using h.of_byteForm he
  · have hkeeps : ¬ WritesCrc (decode cw) := by
      rw [writesCrc_decode_iff hres]
      rintro ⟨hop | hop, huc⟩
      · exact absurd huc (by rw [hinit hop]; decide)
      · exact hbyte ⟨hop, huc⟩
    simpa [PortInput.command, PortInput.crcByte, hbyte] using h.of_not_writesCrc hkeeps he

/-- An input that leaves the CRC unit's span alone adds the byte it hands to the unit (R70). -/
theorem accept (h : HoldsCrcSpan bs s) {p : PortInput} (hp : p.keepsCrcSpan = true) :
    ∃ t, accept p s = .next t ∧ t.port = s.port ∧ HoldsCrcSpan (bs ++ p.crcByte.toList) t := by
  match p, hp with
  | ⟨false, none⟩, _ => exact ⟨s, rfl, rfl, by simpa [PortInput.crcByte] using h⟩
  | ⟨false, some cw⟩, hp =>
    have hword : opField cw ≠ 0b11#2 ∧ (opField cw = 0b01#2 → ucField cw = false) := by
      simpa [PortInput.keepsCrcSpan, imp_iff_not_or] using hp
    exact h.exec_decode hword.1 hword.2

end HoldsCrcSpan

/-- A word that initialises the CRC unit makes it hold the empty span (R53, R64). -/
theorem exec_decode_holdsCrcSpan_nil {cw : CommandWord}
    (h : decode cw = .initC ∨ decode cw = .initCS) (s : State) :
    ∃ t, exec (decode cw) s = .next t ∧ t.port = s.port ∧ HoldsCrcSpan [] t := by
  obtain h | h := h <;> rw [h]
  · exact ⟨_, rfl, rfl, .initCrc s⟩
  · exact ⟨_, rfl, rfl, .initCrc s⟩

/-- Settles O46: the INIT makes the unit hold the empty span, and each input adds its byte. -/
theorem crcUnitComputesTheCrcOfItsBytes : Obligations.CrcUnitComputesTheCrcOfItsBytes := by
  intro s cw ps rest hinit hport hps
  obtain ⟨u, hu, huport, hempty⟩ :=
    exec_decode_holdsCrcSpan_nil hinit { s with port := ps ++ rest }
  have hstep : step s = .next u :=
    (stepExecutesTheDecodedCommand s cw (ps ++ rest) hport).trans hu
  obtain ⟨t, ht, htport, hcrc, hhist⟩ := runSteps_extends_span (Holds := HoldsCrcSpan)
    (byte := PortInput.crcByte) .withPort (fun p hp _ _ h => h.accept (hps p hp)) hempty huport
  exact ⟨t, (runSteps_succ hstep ps.length).trans ht, htport, hhist,
    fun x => congrArg (· ^^^ x) hcrc⟩

end Sys2Proof.Machine

/-! ## Proofs: the CRC over a span (41_crc16.md rules R55, R57, R59, R60) -/

namespace Sys2Proof.Machine

theorem crc16With_zero (s : List Byte) : crc16With 0x0000 s = crcReg s := BitVec.xor_zero

theorem crc16With_ones (s : List Byte) : crc16With 0xFFFF s = ~~~ crcReg s := BitVec.xor_allOnes

/-- Settles O39: the equations, XOR with zeros and with ones, and the check values. -/
theorem crcOverASpanAndItsCheckValue : Obligations.CrcOverASpanAndItsCheckValue :=
  ⟨crcReg_nil, crcReg_concat,
    fun s => ⟨fun _ => rfl, crc16With_zero s, crc16With_ones s, crc16With_zero s⟩,
    by decide +kernel⟩

/-! ### Two spans of equal length -/

/-- Linearity over spans, from any two register values (R57). -/
theorem foldl_crcStep_xor {s s' : List Byte} (h : s.length = s'.length) (a b : CrcWord) :
    s.foldl crcStep a ^^^ s'.foldl crcStep b = (spanXor s s').foldl crcStep (a ^^^ b) := by
  induction s generalizing s' a b with
  | nil =>
    obtain rfl := List.length_eq_zero_iff.mp h.symm
    rfl
  | cons d s ih =>
    obtain ⟨e, s', rfl⟩ := List.exists_cons_of_length_eq_add_one h.symm
    have hstep := ih (Nat.succ.inj h) (crcStep a d) (crcStep b e)
    rwa [← crcStep_xor] at hstep

/-- Settles O36: the initial values of the two spans cancel. -/
theorem crcStepIsLinear : Obligations.CrcStepIsLinear :=
  ⟨crcStep_xor, crcStep_zero_zero, crcStep_eq_xor,
    fun _ _ h => by simpa [crcReg] using foldl_crcStep_xor h Config.crcInit Config.crcInit⟩

theorem foldl_crcStep_injective (s : List Byte) : Function.Injective fun c => s.foldl crcStep c := by
  induction s with
  | nil => exact Function.injective_id
  | cons d s ih => exact ih.comp (crcStep_injective_register d)

theorem crc16With_eq_iff (x : CrcWord) (s s' : List Byte) :
    crc16With x s = crc16With x s' ↔ crcReg s = crcReg s' := BitVec.xor_left_inj x

/-! ### Joined spans -/

/-- Settles O40: 0x7B, 0x30 leads from INIT back to INIT, as the empty span does, but not from 0xE1F0. -/
theorem crcOfJoinedSpansNeedsTheLength : Obligations.CrcOfJoinedSpansNeedsTheLength := by
  refine ⟨fun _ => rfl, by decide +kernel, by decide +kernel, crcReg_append, ?_⟩
  rintro ⟨f, hf⟩
  have hsame : crcReg [0x7B, 0x30] = crcReg [] := by decide +kernel
  have hjoined : crcReg ([0x00] ++ [0x7B, 0x30]) ≠ crcReg ([0x00] ++ []) := by decide +kernel
  exact hjoined (by rw [hf, hf, hsame])

/-! ### Bursts -/

theorem spanBit_cons_of_lt (d : Byte) (s : List Byte) {i : Nat} (h : i < 8) :
    spanBit (d :: s) i = d.getLsbD (7 - i) := by
  simp [spanBit, Nat.div_eq_of_lt h, Nat.mod_eq_of_lt h]

theorem spanBit_cons_add (d : Byte) (s : List Byte) (i : Nat) :
    spanBit (d :: s) (8 + i) = spanBit s i := by
  simp [spanBit, Nat.add_div_left]

theorem spanBit_of_le {s : List Byte} {i : Nat} (h : 8 * s.length ≤ i) : spanBit s i = false := by
  have hlen : s.length ≤ i / 8 := by omega
  simp [spanBit, hlen]

/-- The bits of a span and its length determine it. -/
theorem eq_of_spanBit_eq {s s' : List Byte} (hlen : s.length = s'.length)
    (h : ∀ i, spanBit s i = spanBit s' i) : s = s' := by
  induction s generalizing s' with
  | nil => exact (List.length_eq_zero_iff.mp hlen.symm).symm
  | cons d s ih =>
    obtain ⟨e, s', rfl⟩ := List.exists_cons_of_length_eq_add_one hlen.symm
    have hbyte : d = e := BitVec.eq_of_getLsbD_eq fun i hi => by
      have hbit := h (7 - i)
      rwa [spanBit_cons_of_lt d s (by omega), spanBit_cons_of_lt e s' (by omega),
        Nat.sub_sub_self (by omega)] at hbit
    have hrest : s = s' := ih (Nat.succ.inj hlen) fun i => by
      rw [← spanBit_cons_add d s, h, spanBit_cons_add]
    rw [hbyte, hrest]

/-- A span byte by byte is its bits one by one (R23, R52 a). -/
theorem foldl_crcStep_eq_absorbBits (s : List Byte) (c : CrcWord) :
    s.foldl crcStep c = absorbBits (spanBit s) (8 * s.length) c := by
  induction s generalizing c with
  | nil => rfl
  | cons d s ih =>
    have hbyte : crcStep c d = absorbBits (spanBit (d :: s)) 8 c := by
      rw [← crcStepSerial_eq_crcStep, crcStepSerial_eq_absorbBits]
      exact absorbBits_congr (fun i hi => (spanBit_cons_of_lt d s hi).symm) c
    rw [List.foldl_cons, ih, hbyte, List.length_cons, Nat.mul_succ, Nat.add_comm, absorbBits_add]
    exact absorbBits_congr (fun i _ => (spanBit_cons_add d s i).symm) _

/-- The sixteen bits of a stream from bit `k` on as a word, the first at the top. -/
def windowWord (f : Nat → Bool) (k : Nat) : CrcWord := BitVec.ofFnLE fun i => f (k + (15 - i))

theorem windowWord_getLsbD (f : Nat → Bool) (k : Nat) {i : Nat} (hi : i < 16) :
    (windowWord f k).getLsbD (15 - i) = f (k + i) := by
  have hlt : 15 - i < 16 := by omega
  have hsub : 15 - (15 - i) = i := by omega
  simp [windowWord, hlt, hsub]

/-- The burst argument (R60): from the zero register nothing happens before the window, the window is sixteen
shifts of its word, and what comes after only shifts; no shift loses anything. -/
theorem absorbBits_window {f : Nat → Bool} {k : Nat} (hf : ∀ i, f i = true → k ≤ i ∧ i < k + 16)
    (n : Nat) : absorbBits f (k + 16 + n) 0 = crcShifts n (crcShifts 16 (windowWord f k)) := by
  have hoff : ∀ i, ¬ (k ≤ i ∧ i < k + 16) → f i = false := fun i hi =>
    Bool.eq_false_iff.mpr fun h => hi (hf i h)
  have hbefore : absorbBits f k 0 = 0 := by
    rw [absorbBits_of_false fun i hi => hoff i (by omega), crcShifts_zero_word]
  have hwindow : absorbBits (fun i => f (k + i)) 16 0 = crcShifts 16 (windowWord f k) :=
    calc absorbBits (fun i => f (k + i)) 16 0
        = absorbBits (fun i => (windowWord f k).getLsbD (15 - i)) 16 0 :=
          absorbBits_congr (fun i hi => (windowWord_getLsbD f k hi).symm) 0
      _ = crcShifts 16 (windowWord f k) := by
          rw [absorbBits_word _ _ le_rfl]
          simp
  rw [absorbBits_add, absorbBits_add, hbefore, hwindow]
  exact absorbBits_of_false (fun i _ => hoff _ (by omega)) _

/-- A stream with a 1, all of them within 16 consecutive bits, does not leave the zero register. -/
theorem absorbBits_ne_zero_of_burst {f : Nat → Bool} {k n : Nat}
    (hf : ∀ i, f i = true → k ≤ i ∧ i < k + 16) (hend : ∀ i, n ≤ i → f i = false)
    (hne : ∃ i, f i = true) : absorbBits f n 0 ≠ 0 := by
  intro h
  have hlonger : absorbBits f (k + 16 + n) 0 = 0 := by
    rw [Nat.add_comm, absorbBits_add, h, absorbBits_of_false fun i _ => hend _ (Nat.le_add_right n i),
      crcShifts_zero_word]
  have hword : windowWord f k = 0 := by
    rwa [absorbBits_window hf, crcShifts_eq_zero_iff, crcShifts_eq_zero_iff] at hlonger
  obtain ⟨i, hi⟩ := hne
  obtain ⟨hk, hi16⟩ := hf i hi
  have hbit := windowWord_getLsbD f k (i := i - k) (by omega)
  rw [hword, Nat.add_sub_cancel' hk, hi] at hbit
  simp at hbit

/-- The registers of two spans of equal length differ by the stream of their differing bits (R57). -/
theorem crcReg_xor_eq_absorbBits {s s' : List Byte} (h : s.length = s'.length) :
    crcReg s ^^^ crcReg s' =
      absorbBits (fun i => spanBit s i ^^ spanBit s' i) (8 * s.length) 0 := by
  rw [crcReg, crcReg, foldl_crcStep_eq_absorbBits, foldl_crcStep_eq_absorbBits, ← h,
    ← absorbBits_xor, BitVec.xor_self]
  rfl

/-- Settles O41: the burst argument for any window; one byte and two bytes also follow from the bijections of
R58, as the bytes after them lose nothing. -/
theorem burstOfSixteenBitsChangesTheCrc : Obligations.BurstOfSixteenBitsChangesTheCrc := by
  simp only [Obligations.BurstOfSixteenBitsChangesTheCrc, ne_eq, crc16With_eq_iff]
  refine ⟨fun s s' k _ hlen hne hwin heq => ?window, fun a b d d' _ hne heq => ?byte,
    fun a b d d' e e' _ hne heq => ?bytes⟩
  case window =>
    refine absorbBits_ne_zero_of_burst (f := fun i => spanBit s i ^^ spanBit s' i)
      (k := k) (n := 8 * s.length) (fun i hi => hwin i (by simpa using hi)) (fun i hi => ?_) ?_ ?_
    · rw [spanBit_of_le hi, spanBit_of_le (hlen ▸ hi)]
      rfl
    · by_contra hsame
      exact hne (eq_of_spanBit_eq hlen fun i => by simpa using not_exists.mp hsame i)
    · rw [← crcReg_xor_eq_absorbBits hlen, heq]
      exact BitVec.xor_self
  case byte =>
    simp only [crcReg_append] at heq
    exact hne (crcStep_injective_byte _ (foldl_crcStep_injective b heq))
  case bytes =>
    simp only [crcReg_append] at heq
    exact hne ((crcStep_crcStep_bijective _).injective (foldl_crcStep_injective b heq))

end Sys2Proof.Machine

/-! ## Proofs: the residue of a span and its own CRC (41_crc16.md rule R61) -/

namespace Sys2Proof.Machine

/-- Two bytes at the end of a span: sixteen shifts of what they change the register to. -/
theorem crcReg_append_pair (s : List Byte) (a b : Byte) :
    crcReg (s ++ [a, b]) = crcShifts 16 (crcReg s ^^^ joinBytes a b) :=
  (crcReg_append s [a, b]).trans (crcStep_crcStep (crcReg s) a b)

theorem residueOut_eq (x : CrcWord) : residueOut x = crcShifts 16 x ^^^ x := by
  rw [residueOut, crcStep_crcStep, joinBytes_hiByte_loByte]
  exact congrArg (crcShifts 16 · ^^^ x) BitVec.zero_xor

/-- The call through the block, as a function (R38, R70). -/
theorem callCrc16_eq (x : CrcWord) (span : List Byte) (s : State) :
    callCrc16 x span s = some (crc16With x span) := by
  obtain ⟨-, -, -, -, -, -, hcall⟩ := macroCallsReturnTheFunctions span
  exact (hcall s).1 x

theorem checkResidue_pair (x : CrcWord) (span : List Byte) (a b : Byte) (s : State) :
    checkResidue x span [a, b] s =
      some (decide (crcReg (span ++ [a, b]) = crcShifts 16 x)) := by
  rw [checkResidue, callCrc16_eq, residueOut_eq, Option.map_some, crc16With]
  simp only [BitVec.xor_left_inj]

theorem checkField_pair (x : CrcWord) (span : List Byte) (a b : Byte) (s : State) :
    checkField .msbFirst x .crc16 span [a, b] s =
      some (decide (joinBytes a b = crcReg span ^^^ x)) := by
  simp [checkField, callCrc16_eq, assembleCrc, crc16With]

/-- The right field is the one that leaves the shifts of XOROUT, as shifting loses nothing. -/
theorem crcReg_append_pair_eq_iff (x : CrcWord) (s : List Byte) (a b : Byte) :
    crcReg (s ++ [a, b]) = crcShifts 16 x ↔ joinBytes a b = crcReg s ^^^ x := by
  rw [crcReg_append_pair, (crcShifts_injective 16).eq_iff, ← BitVec.xor_right_inj (crcReg s),
    ← BitVec.xor_assoc, BitVec.xor_self, BitVec.zero_xor]

/-- A span followed by its own CRC for XOROUT `x`, high byte first. -/
theorem crcReg_append_own_crc (x : CrcWord) (s : List Byte) :
    crcReg (s ++ [hiByte (crc16With x s), loByte (crc16With x s)]) = crcShifts 16 x := by
  rw [crcReg_append_pair_eq_iff, joinBytes_hiByte_loByte, crc16With]

/-- The shifts of the two documented values of XOROUT. -/
theorem crcShifts_sixteen_xorout : crcShifts 16 0x0000 = 0x0000 ∧ crcShifts 16 0xFFFF = 0x1D0F := by
  decide +kernel

/-- Settles O42: (a) and (b) are a span and its own CRC for the two values of XOROUT, (c) is two spans with
two results, and both checks ask whether the field is the CRC of the span. -/
theorem residueOfASpanAndItsOwnCrc : Obligations.ResidueOfASpanAndItsOwnCrc := by
  obtain ⟨hzero, hones⟩ := crcShifts_sixteen_xorout
  have hown (s : List Byte) :
      crcReg (s ++ [hiByte (crcReg s), loByte (crcReg s)]) = 0x0000 := by
    have h := crcReg_append_own_crc 0x0000 s
    rwa [hzero, crc16With_zero] at h
  have hcomplement (s : List Byte) :
      crcReg (s ++ [hiByte (~~~ crcReg s), loByte (~~~ crcReg s)]) = 0x1D0F := by
    have h := crcReg_append_own_crc 0xFFFF s
    rwa [hones, crc16With_ones] at h
  refine ⟨fun s => ⟨crcStep_hiByte (crcReg s), hown s⟩, fun s => ⟨hcomplement s, ?output⟩,
    ?lowFirst, fun x span a b s => ?sameAnswer, fun span a b s => ⟨?document, ?catalogue⟩⟩
  case output =>
    rw [crc16With, hcomplement]
    rfl
  case lowFirst =>
    rintro ⟨v, hv⟩
    have hdiffer : crcReg ([] ++ [loByte (crcReg []), hiByte (crcReg [])]) ≠
        crcReg ([0x00] ++ [loByte (crcReg [0x00]), hiByte (crcReg [0x00])]) := by decide +kernel
    exact hdiffer ((hv []).trans (hv [0x00]).symm)
  case sameAnswer => simp only [checkResidue_pair, checkField_pair, crcReg_append_pair_eq_iff]
  case document => rw [checkResidue_pair, hzero]
  case catalogue => rw [checkResidue_pair, hones]

end Sys2Proof.Machine

/-! ## Proofs: the register as a polynomial remainder (41_crc16.md rule R56)

Modulo the generator a shift is the multiplication by x, so a byte is the multiplication by x^8 of the
register with the byte's polynomial times x^8 added; the remainder is the one representative of degree
below 16. -/

namespace Sys2Proof.Machine

open Polynomial

/-! ### Bit vectors as polynomials -/

theorem polyOf_coeff {n : Nat} (v : BitVec n) (i : Nat) :
    (polyOf v).coeff i = if v.getLsbD i then 1 else 0 := by
  have hterm (j : Nat) : (if v.getLsbD j then (X ^ j : (ZMod 2)[X]) else 0).coeff i =
      if i = j then (if v.getLsbD j then 1 else 0) else 0 := by
    cases v.getLsbD j <;> simp [coeff_X_pow]
  simp only [polyOf, finsetSum_coeff, hterm, Finset.sum_ite_eq, Finset.mem_range]
  split
  · rfl
  · next hi => simp [BitVec.getLsbD_of_ge v i (not_lt.mp hi)]

theorem polyOf_xor {n : Nat} (a b : BitVec n) : polyOf (a ^^^ b) = polyOf a + polyOf b := by
  ext i
  simp only [coeff_add, polyOf_coeff, BitVec.getLsbD_xor]
  cases a.getLsbD i <;> cases b.getLsbD i <;> decide

@[simp] theorem polyOf_zero {n : Nat} : polyOf (0 : BitVec n) = 0 := by
  ext i
  simp [polyOf_coeff]

theorem polyOf_degree_lt {n : Nat} (v : BitVec n) : (polyOf v).degree < n := by
  rw [degree_lt_iff_coeff_zero]
  intro i hi
  simp [polyOf_coeff, BitVec.getLsbD_of_ge v i hi]

/-- Bit 15 leaves the word as x^16. -/
theorem polyOf_shiftLeft_one (t : CrcWord) :
    polyOf (t <<< 1) + (if t.getLsbD 15 then X ^ 16 else 0) = X * polyOf t := by
  ext i
  have hout : (if t.getLsbD 15 then (X ^ 16 : (ZMod 2)[X]) else 0).coeff i =
      if i = 16 ∧ t.getLsbD 15 then 1 else 0 := by
    cases t.getLsbD 15 <;> simp [coeff_X_pow]
  rw [coeff_add, polyOf_coeff, hout]
  cases i with
  | zero => simp
  | succ i =>
    rw [coeff_X_mul, polyOf_coeff]
    obtain hi | rfl | hi := Nat.lt_trichotomy i 15
    · have hlt : i + 1 < 16 := by omega
      simp [hlt, hi.ne, BitVec.getLsbD_eq_getElem (Nat.lt_of_succ_lt hlt)]
    · simp
    · have hge : ¬ i + 1 < 16 := by omega
      simp [hge, hi.ne', BitVec.getLsbD_of_ge t i hi]

/-- A byte in the top half is multiplied by x^8. -/
theorem polyOf_top_byte (d : Byte) : polyOf (d.setWidth 16 <<< 8) = X ^ 8 * polyOf d := by
  ext i
  rw [coeff_X_pow_mul', polyOf_coeff, polyOf_coeff]
  by_cases h8 : i < 8
  · simp [h8]
  · by_cases h16 : i < 16
    · simp [h8, h16, not_lt.mp h8]
    · simp [h16, BitVec.getLsbD_of_ge d (i - 8) (by omega)]

/-! ### The generator -/

theorem polyOf_poly : polyOf Config.poly = X ^ 12 + X ^ 5 + 1 := by
  simp [polyOf, Config.poly, Finset.sum_range_succ]
  ring

theorem generatorPoly_monic : generatorPoly.Monic := by
  unfold generatorPoly
  monicity!

theorem generatorPoly_degree : generatorPoly.degree = 16 := by
  unfold generatorPoly
  compute_degree!

/-- Residues modulo the generator. -/
noncomputable abbrev modGenerator : (ZMod 2)[X] →+* AdjoinRoot generatorPoly :=
  AdjoinRoot.mk generatorPoly

theorem modGenerator_generatorPoly : modGenerator generatorPoly = 0 := AdjoinRoot.mk_self

theorem modGenerator_pow_sixteen : modGenerator (X ^ 16) = modGenerator (polyOf Config.poly) := by
  have hsum : X ^ 16 + polyOf Config.poly = generatorPoly := by
    rw [polyOf_poly, generatorPoly]
    ring
  rw [AdjoinRoot.mk_eq_mk, CharTwo.sub_eq_add, hsum]

theorem modGenerator_crcFeedback (b : Bool) :
    modGenerator (polyOf (crcFeedback b)) = modGenerator (if b then X ^ 16 else 0) := by
  cases b with
  | false => exact congrArg modGenerator polyOf_zero
  | true => exact modGenerator_pow_sixteen.symm

/-- One shift is the multiplication by x. -/
theorem modGenerator_crcShift (t : CrcWord) :
    modGenerator (polyOf (crcShift t)) = modGenerator X * modGenerator (polyOf t) := by
  rw [crcShift_eq, polyOf_xor, map_add, modGenerator_crcFeedback, ← map_add, polyOf_shiftLeft_one, map_mul]

theorem modGenerator_crcShifts (n : Nat) (t : CrcWord) :
    modGenerator (polyOf (crcShifts n t)) = modGenerator X ^ n * modGenerator (polyOf t) := by
  induction n with
  | zero => simp [crcShifts]
  | succ n ih => rw [crcShifts_succ, modGenerator_crcShift, ih]; ring

theorem modGenerator_crcStep (c : CrcWord) (d : Byte) :
    modGenerator (polyOf (crcStep c d)) =
      modGenerator X ^ 8 * (modGenerator (polyOf c) + modGenerator X ^ 8 * modGenerator (polyOf d)) := by
  rw [crcStep, modGenerator_crcShifts, polyOf_xor, polyOf_top_byte, map_add, map_mul, map_pow]

/-- The register after a span, from any register value. -/
theorem modGenerator_foldl_crcStep (s : List Byte) (c : CrcWord) :
    modGenerator (polyOf (s.foldl crcStep c)) =
      modGenerator (polyOf c * X ^ (8 * s.length) + messagePoly s * X ^ 16) := by
  induction s generalizing c with
  | nil => simp [messagePoly]
  | cons d s ih =>
    rw [List.foldl_cons, ih]
    simp only [map_add, map_mul, map_pow, modGenerator_crcStep, messagePoly, List.length_cons]
    ring

/-- A word is the remainder of every polynomial it is congruent to. -/
theorem polyOf_eq_modByMonic {c : CrcWord} {p : (ZMod 2)[X]}
    (h : modGenerator (polyOf c) = modGenerator p) : polyOf c = p %ₘ generatorPoly := by
  obtain ⟨q, hq⟩ := AdjoinRoot.mk_eq_mk.mp h.symm
  have hdegree : (polyOf c).degree < generatorPoly.degree :=
    (polyOf_degree_lt c).trans_eq generatorPoly_degree.symm
  exact (div_modByMonic_unique q (polyOf c) generatorPoly_monic
    ⟨by rw [← hq, add_sub_cancel], hdegree⟩).2.symm

/-- Settles O38: the register is congruent to the polynomial of R56 and its degree is below 16. -/
theorem crcRegisterIsThePolynomialRemainder : Obligations.CrcRegisterIsThePolynomialRemainder :=
  ⟨fun s => polyOf_eq_modByMonic (modGenerator_foldl_crcStep s Config.crcInit), crcReg_nil⟩

end Sys2Proof.Machine

/-! ## Proofs: reserved words (42_control_and_dual.md rule R68, 30_encoding.md rule R34) -/

namespace Sys2Proof

/-! ### The word of a reserved command -/

theorem opField_reserved_append (low : BitVec 10) : opField (0b11#2 ++ low) = 0b11#2 := by
  have hlt := low.isLt
  apply BitVec.eq_of_toNat_eq
  rw [opField_toNat, toNat_append_eq_add, BitVec.toNat_ofNat]
  omega

theorem lowField_toNat (cw : CommandWord) : (lowField cw).toNat = cw.toNat % 1024 := by
  simp [lowField, BitVec.extractLsb'_toNat]

theorem lowField_reserved_append (low : BitVec 10) : lowField (0b11#2 ++ low) = low := by
  have hlt := low.isLt
  apply BitVec.eq_of_toNat_eq
  rw [lowField_toNat, toNat_append_eq_add, BitVec.toNat_ofNat]
  omega

end Sys2Proof

namespace Sys2Proof.Machine

theorem exec_reserved (low : BitVec 10) (s : State) :
    exec (.reserved low) s = .refused (.reservedWord low) := rfl

/-- Settles O7: `op` and the ten bits below it are read back from their concatenation. -/
theorem reservedCommandKeepsItsBits : Obligations.ReservedCommandKeepsItsBits := by
  refine fun low s => ⟨rfl, ?_, exec_reserved low s⟩
  rw [decode_of_opField_reserved (opField_reserved_append low), lowField_reserved_append]

/-! ### Refusal of a step and of a run -/

/-- A step that takes a reserved word is refused (R68). -/
theorem step_of_reserved {s : State} {cw : CommandWord} {rest : List PortInput}
    (hop : opField cw = 0b11#2) (hport : s.port = PortInput.command cw :: rest) :
    step s = .refused (.reservedWord (lowField cw)) :=
  (stepExecutesTheDecodedCommand s cw rest hport).trans (exec_decode_of_reserved hop _)

/-- Settles O6: the reserved row is `op = 11`, whose words exec refuses, and the first refusal ends a run. -/
theorem reservedWordIsRefusedInEveryState : Obligations.ReservedWordIsRefusedInEveryState := by
  refine ⟨fun low s => ⟨_, exec_reserved low s⟩, fun cw s hrow => ?_,
    fun cw rest s hrow hport => ?_⟩
  · exact ⟨_, exec_decode_of_reserved (opField_of_and_C00 hrow) s⟩
  · have hstep := step_of_reserved (opField_of_and_C00 hrow) hport
    exact ⟨_, hstep, runSteps_refused hstep⟩

/-! ### Meaningful inputs before a reserved word -/

/-- A meaningful input completes in every state and leaves the host's later items (R34, R82; log entries 2
and 3). -/
theorem accept_of_meaningful {p : PortInput} (hp : p.meaningful = true) (s : State) :
    ∃ t, accept p s = .next t ∧ t.port = s.port := by
  match p, hp with
  | ⟨true, _⟩, _ => exact ⟨applyReset s, rfl, rfl⟩
  | ⟨false, none⟩, _ => exact ⟨s, rfl, rfl⟩
  | ⟨false, some cw⟩, hp =>
    have hop : opField cw ≠ 0b11#2 := by simpa [PortInput.meaningful] using hp
    obtain ⟨t, hexec, -, -, hport⟩ := exec_decode_of_ne_reserved hop s
    exact ⟨t, hexec, hport⟩

/-- Meaningful inputs are taken one a step, and any longer run goes on from the state they lead to. -/
theorem runSteps_length_add_of_meaningful {ps rest : List PortInput} {s : State}
    (hps : ∀ p ∈ ps, p.meaningful = true) (hport : s.port = ps ++ rest) :
    ∃ t : State, t.port = rest ∧ ∀ j, runSteps (ps.length + j) s = runSteps j t := by
  induction ps generalizing s with
  | nil => exact ⟨s, hport, fun j => by rw [List.length_nil, Nat.zero_add]⟩
  | cons p ps ih =>
    obtain ⟨hp, hps⟩ := List.forall_mem_cons.mp hps
    obtain ⟨u, hu, huport⟩ := accept_of_meaningful hp { s with port := ps ++ rest }
    obtain ⟨t, htport, ht⟩ := ih hps huport
    have hstep : step s = .next u := (step_of_port_cons hport).trans hu
    exact ⟨t, htport, fun j => by
      rw [List.length_cons, Nat.add_right_comm, runSteps_succ hstep, ht]⟩

/-- Settles O8: the run reaches the reserved word, and the step that takes it is refused. -/
theorem runThatTakesAReservedWordIsRefused : Obligations.RunThatTakesAReservedWordIsRefused := by
  intro ps rest cw s k hps hop hport hk
  obtain ⟨t, htport, ht⟩ := runSteps_length_add_of_meaningful hps hport
  obtain ⟨j, rfl⟩ := Nat.exists_eq_add_of_lt hk
  exact ⟨_, (ht (j + 1)).trans (runSteps_refused (step_of_reserved hop htport) j)⟩

end Sys2Proof.Machine

/-! ## Proofs: the commands of no unit and of both units (42_control_and_dual.md rules R63 to R67) -/

namespace Sys2Proof.Machine

/-! ### NOP, INIT.0 and BYTE.0 -/

theorem exec_nop (s : State) : exec .nop s = .next s := rfl

theorem exec_init0 (s : State) : exec .init0 s = .next s := rfl

theorem exec_byte0 (d : Byte) (s : State) : exec (.byte0 d) s = .next s := rfl

/-- Settles O18: the row of NOP is `op = 00`. -/
theorem nopChangesNothing : Obligations.NopChangesNothing :=
  ⟨fun _ hrow => decode_of_opField_nop (opField_of_and_C00 hrow), rfl, exec_nop⟩

/-- Settles O19: the row of INIT.0 is the INIT row of no unit. -/
theorem initZeroChangesNothing : Obligations.InitZeroChangesNothing :=
  ⟨fun _ => decode_of_init_row (uc := false) (us := false), encode_initForm false false, exec_init0⟩

/-- Settles O20: the row of BYTE.0 is the BYTE row of no unit, and its data byte is added to the word. -/
theorem byteZeroAbsorbsNothing : Obligations.ByteZeroAbsorbsNothing :=
  ⟨fun _ => decode_of_byte_row (uc := false) (us := false), formatC_eq_add 0b10#2 false false,
    exec_byte0⟩

/-! ### INIT.CS and BYTE.CS -/

theorem exec_initCS (s : State) : exec .initCS s = .next (initSum (initCrc s)) := rfl

theorem exec_byteCS (d : Byte) (s : State) :
    exec (.byteCS d) s = .next (absorbSum d (absorbCrc d s)) := rfl

/-- The two initialisations write different fields, so their order does not matter (R64). -/
theorem initSum_initCrc_comm (s : State) : initSum (initCrc s) = initCrc (initSum s) := rfl

/-- The two units absorb into different fields, so their order does not matter (R65). -/
theorem absorbSum_absorbCrc_comm (d : Byte) (s : State) :
    absorbSum d (absorbCrc d s) = absorbCrc d (absorbSum d s) := rfl

/-- Settles O25: the two initialisations commute, and together they leave what reset leaves. -/
theorem initBothIsInitCrcAndInitSum : Obligations.InitBothIsInitCrcAndInitSum := by
  refine ⟨fun _ => decode_of_init_row (uc := true) (us := true), encode_initForm true true, fun s =>
    ⟨initCrc s, initSum s, initSum (initCrc s), exec_initCS s, rfl, rfl, exec_initC s,
      exec_initS (initCrc s), exec_initS s, ?_⟩⟩
  rw [exec_initC, initSum_initCrc_comm]

/-- Settles O26: the two absorptions commute, and each reads the old state's register of its own unit. -/
theorem byteBothIsByteCrcAndByteSum : Obligations.ByteBothIsByteCrcAndByteSum := by
  refine ⟨fun _ => decode_of_byte_row (uc := true) (us := true), formatC_eq_add 0b10#2 true true,
    fun d s => ⟨absorbCrc d s, absorbSum d s, absorbSum d (absorbCrc d s), exec_byteCS d s, ?_,
      exec_byteC d s, exec_byteS d (absorbCrc d s), exec_byteS d s, ?_⟩, by decide⟩
  · exact state_ext rfl (sumStep_eq_ofNat s.sum d) rfl rfl rfl
  · rw [exec_byteC, absorbSum_absorbCrc_comm]

end Sys2Proof.Machine

/-! ## Proofs: the block as two one-register machines (42_control_and_dual.md rule R69)

Each register by itself is a machine that takes the command words. Serving words runs the two side by side,
and neither moves on a word that does not select it. -/

namespace Sys2Proof.Machine

/-- The CRC register's own machine: `next_crc` of R69 on the fields of a word. -/
def crcMachine (crc : CrcWord) (cw : CommandWord) : CrcWord :=
  nextCrc crc (opField cw) (ucField cw) (dField cw)

/-- The SUM register's own machine: `next_sum` of R69 on the fields of a word. -/
def sumMachine (sum : Byte) (cw : CommandWord) : Byte :=
  nextSum sum (opField cw) (usField cw) (dField cw)

/-- The block runs the two machines side by side over words with no reserved one among them. -/
theorem serve_eq_machines {ws : List CommandWord} (hws : ∀ cw ∈ ws, opField cw ≠ 0b11#2)
    (s : State) :
    ∃ t, serve ws s = .next t ∧ t.crc = ws.foldl crcMachine s.crc ∧
      t.sum = ws.foldl sumMachine s.sum := by
  induction ws generalizing s with
  | nil => exact ⟨s, rfl, rfl, rfl⟩
  | cons cw ws ih =>
    obtain ⟨hop, hws⟩ := List.forall_mem_cons.mp hws
    obtain ⟨u, hu, hcrc, hsum, -⟩ := exec_decode_of_ne_reserved hop s
    rw [serve_cons_of_next hu, List.foldl_cons, List.foldl_cons, crcMachine, sumMachine, ← hcrc,
      ← hsum]
    exact ih hws u

/-! ### Words that do not select a unit -/

@[simp] theorem nextCrc_nop (crc : CrcWord) (uc : Bool) (d : Byte) :
    nextCrc crc 0b00#2 uc d = crc := by
  simp [nextCrc]

@[simp] theorem nextSum_nop (sum : Byte) (us : Bool) (d : Byte) :
    nextSum sum 0b00#2 us d = sum := by
  simp [nextSum]

@[simp] theorem nextCrc_unselected (crc : CrcWord) (op : BitVec 2) (d : Byte) :
    nextCrc crc op false d = crc := by
  simp [nextCrc]

@[simp] theorem nextSum_unselected (sum : Byte) (op : BitVec 2) (d : Byte) :
    nextSum sum op false d = sum := by
  simp [nextSum]

@[simp] theorem opField_encode_nop : opField (encode .nop) = 0b00#2 :=
  opField_formatC 0b00#2 false false 0x00

/-- NOP in place of a word that does not select the CRC unit makes no difference to the CRC machine. -/
theorem crcMachine_asSeenByCrc (crc : CrcWord) (cw : CommandWord) :
    crcMachine crc (asSeenByCrc cw) = crcMachine crc cw := by
  cases huc : ucField cw <;> simp [crcMachine, asSeenByCrc, huc]

/-- NOP in place of a word that does not select the SUM unit makes no difference to the SUM machine. -/
theorem sumMachine_asSeenBySum (sum : Byte) (cw : CommandWord) :
    sumMachine sum (asSeenBySum cw) = sumMachine sum cw := by
  cases hus : usField cw <;> simp [sumMachine, asSeenBySum, hus]

/-- NOP in place of some words brings no reserved word into the stream. -/
theorem opField_ite_nop_ne_reserved {cw : CommandWord} (hop : opField cw ≠ 0b11#2) (b : Bool) :
    opField (if b then cw else encode .nop) ≠ 0b11#2 := by
  cases b
  · simp
  · simpa using hop

theorem serve_asSeenByCrc {ws : List CommandWord} (hws : ∀ cw ∈ ws, opField cw ≠ 0b11#2)
    (s : State) :
    ∃ u, serve (ws.map asSeenByCrc) s = .next u ∧ u.crc = ws.foldl crcMachine s.crc := by
  have hmeaningful : ∀ cw ∈ ws.map asSeenByCrc, opField cw ≠ 0b11#2 :=
    List.forall_mem_map.mpr fun cw hcw => opField_ite_nop_ne_reserved (hws cw hcw) (ucField cw)
  obtain ⟨u, hu, hcrc, -⟩ := serve_eq_machines hmeaningful s
  exact ⟨u, hu, by simp only [hcrc, List.foldl_map, crcMachine_asSeenByCrc]⟩

theorem serve_asSeenBySum {ws : List CommandWord} (hws : ∀ cw ∈ ws, opField cw ≠ 0b11#2)
    (s : State) :
    ∃ v, serve (ws.map asSeenBySum) s = .next v ∧ v.sum = ws.foldl sumMachine s.sum := by
  have hmeaningful : ∀ cw ∈ ws.map asSeenBySum, opField cw ≠ 0b11#2 :=
    List.forall_mem_map.mpr fun cw hcw => opField_ite_nop_ne_reserved (hws cw hcw) (usField cw)
  obtain ⟨v, hv, -, hsum⟩ := serve_eq_machines hmeaningful s
  exact ⟨v, hv, by simp only [hsum, List.foldl_map, sumMachine_asSeenBySum]⟩

/-- Settles O27: a word moves each register by its own machine, and a machine ends the same on the stream
its unit sees. -/
theorem blockIsTheProductOfTwoOneRegisterMachines :
    Obligations.BlockIsTheProductOfTwoOneRegisterMachines := by
  refine ⟨fun cw s hop => ⟨_, exec_decode_of_reserved hop s⟩, fun cw s hop => ?_,
    fun ws s hws => ?_⟩
  · obtain ⟨t, ht, hcrc, hsum, -⟩ := exec_decode_of_ne_reserved hop s
    exact ⟨t, ht, hcrc, hsum⟩
  · obtain ⟨t, ht, htcrc, htsum⟩ := serve_eq_machines hws s
    obtain ⟨u, hu, hucrc⟩ := serve_asSeenByCrc hws s
    obtain ⟨v, hv, hvsum⟩ := serve_asSeenBySum hws s
    exact ⟨t, u, v, ht, hu, hucrc.trans htcrc.symm, hv, hvsum.trans htsum.symm⟩

end Sys2Proof.Machine

/-! ## Proofs: a run over meaningful inputs (43_host_protocol.md rule R78) -/

namespace Sys2Proof.Machine

/-- Settles O16: the run over the meaningful inputs, with no step after them. -/
theorem everyMeaningfulInputIsTaken : Obligations.EveryMeaningfulInputIsTaken := by
  intro ps rest s hps hport
  obtain ⟨t, htport, hrun⟩ := runSteps_length_add_of_meaningful hps hport
  exact ⟨t, hrun 0, htport⟩

end Sys2Proof.Machine

/-! ## Proofs: the integrity field and its check (43_host_protocol.md rules R73 to R77)

The field the host computes through the block is a function of the span, the same from every state. Each
field has one value and each value one field, so the check asks whether the received field is that one. -/

namespace Sys2Proof.Machine

/-- The field that belongs to a span: the function's value, placed in the order of the wire (R75). -/
def rightField (order : WireOrder) (x : CrcWord) (f : IntegrityFunction) (span : List Byte) :
    List Byte :=
  match f with
  | .checksum => [sum8 span]
  | .crc16 => placeCrc order (crc16With x span)

/-! ### Fields and their values -/

@[simp] theorem placeCrc_length (order : WireOrder) (v : CrcWord) : (placeCrc order v).length = 2 := by
  cases order <;> rfl

@[simp] theorem rightField_length (order : WireOrder) (x : CrcWord) (f : IntegrityFunction)
    (span : List Byte) : (rightField order x f span).length = integrityWidth f := by
  cases f
  case checksum => rfl
  case crc16 => exact placeCrc_length order (crc16With x span)

theorem assembleSum_eq_some_iff {field : List Byte} {v : Byte} :
    assembleSum field = some v ↔ field = [v] := by
  match field with
  | [] => simp [assembleSum]
  | [a] => simp [assembleSum]
  | _ :: _ :: _ => simp [assembleSum]

theorem joinBytes_eq_iff {hi lo : Byte} {v : CrcWord} :
    joinBytes hi lo = v ↔ hi = hiByte v ∧ lo = loByte v := by
  constructor
  · rintro rfl
    simp
  · rintro ⟨rfl, rfl⟩
    exact joinBytes_hiByte_loByte v

theorem assembleCrc_eq_some_iff {order : WireOrder} {field : List Byte} {v : CrcWord} :
    assembleCrc order field = some v ↔ field = placeCrc order v := by
  match order, field with
  | .msbFirst, [a, b] => simp [assembleCrc, placeCrc, joinBytes_eq_iff]
  | .lsbFirst, [a, b] => simp [assembleCrc, placeCrc, joinBytes_eq_iff, and_comm]
  | .msbFirst, [] | .lsbFirst, [] => simp [assembleCrc, placeCrc]
  | .msbFirst, [_] | .lsbFirst, [_] => simp [assembleCrc, placeCrc]
  | .msbFirst, _ :: _ :: _ :: _ | .lsbFirst, _ :: _ :: _ :: _ => simp [assembleCrc, placeCrc]

theorem placeCrc_injective (order : WireOrder) : Function.Injective (placeCrc order) := fun v w h => by
  have hv : assembleCrc order (placeCrc order v) = some v := assembleCrc_eq_some_iff.mpr rfl
  have hw : assembleCrc order (placeCrc order v) = some w := assembleCrc_eq_some_iff.mpr h
  exact Option.some.inj (hv.symm.trans hw)

/-- One changed byte changes the field: (e) of R45 for the checksum, R60 for the CRC. -/
theorem rightField_ne_of_byte_ne (order : WireOrder) (x : CrcWord) (f : IntegrityFunction)
    (a b : List Byte) {d d' : Byte} (hne : d ≠ d') :
    rightField order x f (a ++ [d] ++ b) ≠ rightField order x f (a ++ [d'] ++ b) := by
  cases f
  case checksum =>
    obtain ⟨-, -, -, -, hchange, -⟩ := checksumLawsOverSpans
    exact fun h => hchange a b d d' hne (List.singleton_inj.mp h)
  case crc16 =>
    obtain ⟨-, hchange, -⟩ := burstOfSixteenBitsChangesTheCrc
    exact fun h => hchange a b d d' x hne (placeCrc_injective order h)

/-! ### The host's procedures over the block -/

/-- The call through the block, as a function (R38, R70). -/
theorem callChecksum_eq (span : List Byte) (s : State) : callChecksum span s = some (sum8 span) := by
  obtain ⟨-, -, -, -, -, -, hcall⟩ := macroCallsReturnTheFunctions span
  exact (hcall s).2.1

/-- The host computes the right field of the span from every state (R75). -/
theorem integrityField_eq (order : WireOrder) (x : CrcWord) (f : IntegrityFunction) (span : List Byte)
    (s : State) : integrityField order x f span s = some (rightField order x f span) := by
  cases f
  case checksum => rw [integrityField, callChecksum_eq]; rfl
  case crc16 => rw [integrityField, callCrc16_eq]; rfl

/-- The check compares the received field with the right one, from every state (R76). -/
theorem checkField_eq (order : WireOrder) (x : CrcWord) (f : IntegrityFunction)
    (span field : List Byte) (s : State) :
    checkField order x f span field s = some (decide (field = rightField order x f span)) := by
  cases f
  case checksum =>
    rw [checkField, callChecksum_eq, Option.map_some]
    exact congrArg some (decide_eq_decide.mpr assembleSum_eq_some_iff)
  case crc16 =>
    rw [checkField, callCrc16_eq, Option.map_some]
    exact congrArg some (decide_eq_decide.mpr assembleCrc_eq_some_iff)

theorem checkField_eq_false {order : WireOrder} {x : CrcWord} {f : IntegrityFunction}
    {span field : List Byte} (hne : field ≠ rightField order x f span) (s : State) :
    checkField order x f span field s = some false := by
  rw [checkField_eq, decide_eq_false hne]

/-! ### The obligations about fields -/

/-- Settles O53: the check is the comparison with the right field. -/
theorem inboundCheckAcceptsExactlyTheRightField :
    Obligations.InboundCheckAcceptsExactlyTheRightField := by
  intro order x span field s
  have haccepts (f : IntegrityFunction) : checkField order x f span field s = some true ↔
      field = rightField order x f span := by
    rw [checkField_eq, Option.some_inj, decide_eq_true_iff]
  exact ⟨haccepts .checksum, haccepts .crc16, fun f => ⟨_, checkField_eq order x f span field s⟩⟩

/-- Settles O54: any field but the right one is rejected, and a changed byte makes another field right. -/
theorem corruptedFrameIsRejected : Obligations.CorruptedFrameIsRejected := by
  intro order x f span s s'
  refine ⟨rightField order x f span, integrityField_eq order x f span s, ?right,
    fun other hne => checkField_eq_false hne s', ?changed⟩
  case right => rw [checkField_eq, decide_eq_true rfl]
  case changed =>
    rintro a b d d' rfl hne
    exact checkField_eq_false (rightField_ne_of_byte_ne order x f a b hne) s'

/-- Settles O58: the right field has the width of its function, and the residue check runs on two bytes. -/
theorem fieldOfAnotherWidthIsRejected : Obligations.FieldOfAnotherWidthIsRejected := by
  intro order x f span field s
  refine ⟨fun hwidth => checkField_eq_false ?_ s, fun hwidth => ?_⟩
  · rintro rfl
    exact hwidth (rightField_length order x f span)
  · match field, hwidth with
    | [], _ => rfl
    | [_], _ => rfl
    | [_, _], hwidth => exact absurd rfl hwidth
    | _ :: _ :: _ :: _, _ => rfl

end Sys2Proof.Machine

/-! ## Proofs: whole frames (43_host_protocol.md rules R72 to R77)

Taking a frame apart inverts laying out its parts, so received bytes are a frame exactly where they are the
bytes of parts that fit the format. What the host builds are such parts with the right field; damage to them
leaves the field wrong, or leaves bytes that are no frame. -/

namespace Sys2Proof.Machine

/-- The bytes of a frame with these parts, in the layout of R72. -/
def FrameParts.bytes (p : FrameParts) : List Byte :=
  [Config.delimiter] ++ p.len ++ p.cmd ++ p.payload ++ p.field ++ [Config.delimiter]

/-- The parts fit the format: each field has its width, the function is the one CMD selects, and LEN holds
the count (R72, R73, R74). -/
structure FrameParts.Fits (F : FrameFormat) (sel : List Byte → IntegrityFunction) (p : FrameParts) :
    Prop where
  len_length : p.len.length = lenWidth F
  cmd_length : p.cmd.length = cmdWidth F
  function_eq : p.function = sel p.cmd
  field_length : p.field.length = integrityWidth p.function
  readLen_eq : readLen F p.len = p.cmd.length + p.payload.length + p.field.length

theorem FrameParts.bytes_eq_cons (p : FrameParts) :
    p.bytes =
      Config.delimiter :: (p.len ++ (p.cmd ++ (p.payload ++ (p.field ++ [Config.delimiter])))) := by
  simp only [FrameParts.bytes, List.append_assoc, List.cons_append, List.nil_append]

theorem FrameParts.bytes_dropLast (p : FrameParts) :
    p.bytes.dropLast = [Config.delimiter] ++ p.len ++ p.cmd ++ p.payload ++ p.field :=
  List.dropLast_concat

/-! ### Taking a frame apart -/

section Receive

variable {order : WireOrder} {x : CrcWord} {F : FrameFormat} {sel : List Byte → IntegrityFunction}
  {received : List Byte} {s : State} {p : FrameParts}

/-- Of the `n` bytes LEN counts, `c` of CMD first and `w` of the field last: cut there, the pieces and what
comes after them make up the bytes again. -/
theorem pieces_append_drop {l : List Byte} {c w n : Nat} (h : c + w ≤ n) :
    l.take c ++ ((l.drop c).take (n - (c + w)) ++ ((l.drop (n - w)).take w ++ l.drop n)) = l := by
  obtain ⟨m, rfl⟩ := Nat.exists_eq_add_of_le h
  have hm : c + w + m - (c + w) = m := by omega
  have hw : c + w + m - w = c + m := by omega
  have hn : c + w + m = c + m + w := by omega
  rw [hm, hw, hn, ← List.drop_drop (i := w), List.take_append_drop, ← List.drop_drop,
    List.take_append_drop, List.take_append_drop]

/-- What is taken out of received bytes fits the format and lays out to those bytes (R76). -/
theorem fits_of_takeFrame (h : takeFrame F sel received = some p) :
    received = p.bytes ∧ p.Fits F sel := by
  simp only [takeFrame] at h
  split at h
  · next hlayout =>
    obtain ⟨hstart, hfixed, hend⟩ := hlayout
    obtain rfl := Option.some.inj h
    obtain ⟨r, rfl⟩ := List.head?_eq_some_iff.mp hstart
    rw [Nat.add_comm 1] at hfixed hend ⊢
    simp only [List.drop_succ_cons, List.drop_zero] at hfixed hend ⊢
    have hlength := congrArg List.length hend
    simp only [List.length_drop, List.length_singleton] at hlength
    refine ⟨?bytes, ?len, ?cmd, rfl, ?field, ?count⟩
    case bytes =>
      rw [FrameParts.bytes_eq_cons, ← hend, pieces_append_drop hfixed, List.take_append_drop]
    all_goals
      simp only [List.length_take, List.length_drop]
      omega
  · cases h

/-- Parts that fit the format are taken out of the bytes they lay out to (R76). -/
theorem takeFrame_bytes (h : p.Fits F sel) : takeFrame F sel p.bytes = some p := by
  obtain ⟨f, len, cmd, payload, field⟩ := p
  obtain ⟨hlen, hcmd, hfun, hfield, hcount⟩ := h
  simp only at hlen hcmd hfun hfield hcount
  subst hfun
  have hpayload : (payload ++ (field ++ [Config.delimiter])).take
      (readLen F len - (cmd.length + field.length)) = payload :=
    List.take_left' (by omega)
  have hfieldEnd : (cmd ++ (payload ++ (field ++ [Config.delimiter]))).drop
      (readLen F len - field.length) = field ++ [Config.delimiter] := by
    rw [← List.append_assoc]
    exact List.drop_left' (by rw [List.length_append]; omega)
  have hend : (cmd ++ (payload ++ (field ++ [Config.delimiter]))).drop (readLen F len) =
      [Config.delimiter] := by
    rw [← List.append_assoc, ← List.append_assoc]
    exact List.drop_left' (by rw [List.length_append, List.length_append]; omega)
  have hfixed : cmd.length + field.length ≤ readLen F len := by omega
  simp only [takeFrame, FrameParts.bytes_eq_cons, Nat.add_comm 1, List.drop_succ_cons,
    List.drop_zero, ← hlen, List.take_left, List.drop_left, ← hcmd, ← hfield, List.head?_cons,
    hpayload, hfieldEnd, hend, hfixed, and_self, if_true]

/-- Received bytes come apart exactly where they are the bytes of parts that fit the format (R72, R76). -/
theorem takeFrame_eq_some_iff :
    takeFrame F sel received = some p ↔ received = p.bytes ∧ p.Fits F sel := by
  constructor
  · exact fits_of_takeFrame
  · rintro ⟨rfl, hfits⟩
    exact takeFrame_bytes hfits

/-- Parts that fit lay out to START, LEN, the bytes LEN counts, and END. -/
theorem FrameParts.Fits.bytes_length (h : p.Fits F sel) :
    p.bytes.length = lenWidth F + readLen F p.len + 2 := by
  simp only [FrameParts.bytes, List.length_append, List.length_singleton, h.len_length, h.readLen_eq]
  omega

/-- Another field of the same width fits as well. -/
theorem FrameParts.Fits.withField (h : p.Fits F sel) {other : List Byte}
    (hlength : other.length = p.field.length) :
    FrameParts.Fits F sel { p with field := other } :=
  { h with
    field_length := hlength.trans h.field_length
    readLen_eq := h.readLen_eq.trans (by rw [hlength]) }

/-- Another payload of the same length fits as well. -/
theorem FrameParts.Fits.withPayload (h : p.Fits F sel) {other : List Byte}
    (hlength : other.length = p.payload.length) :
    FrameParts.Fits F sel { p with payload := other } :=
  { h with readLen_eq := h.readLen_eq.trans (by rw [hlength]) }

/-- Without the last byte the bytes of a frame are no frame: LEN counts one byte more (log entry 17). -/
theorem takeFrame_dropLast (h : p.Fits F sel) : takeFrame F sel p.bytes.dropLast = none := by
  cases htake : takeFrame F sel p.bytes.dropLast with
  | none => rfl
  | some q =>
    obtain ⟨hbytes, hq⟩ := fits_of_takeFrame htake
    have hlen : p.len = q.len := by
      rw [FrameParts.bytes_dropLast, FrameParts.bytes_eq_cons] at hbytes
      simp only [List.append_assoc, List.cons_append, List.nil_append, List.cons.injEq, true_and]
        at hbytes
      exact List.append_inj_left hbytes (h.len_length.trans hq.len_length.symm)
    have hlength := congrArg List.length hbytes
    rw [List.length_dropLast, h.bytes_length, hq.bytes_length, hlen] at hlength
    omega

/-! ### The outcome of the check -/

/-- Received bytes are accepted exactly where they come apart and the field is right (R76). -/
theorem receiveFrame_eq_accepted_iff :
    receiveFrame order x F sel received s = some (.accepted p) ↔
      takeFrame F sel received = some p ∧ p.field = rightField order x p.function p.span := by
  unfold receiveFrame
  cases takeFrame F sel received with
  | none => simp
  | some q =>
    simp only [checkField_eq, Option.map_some, Option.some_inj, decide_eq_true_iff]
    split
    · next hright =>
      rw [CheckOutcome.accepted.injEq]
      exact ⟨fun h => ⟨h, h ▸ hright⟩, And.left⟩
    · next hwrong =>
      refine ⟨nofun, ?_⟩
      rintro ⟨rfl, hright⟩
      exact absurd hright hwrong

/-- Received bytes come to ValidationFail exactly where no frame with its right field is taken out of them
(R76, R77). -/
theorem receiveFrame_eq_validationFail_iff :
    receiveFrame order x F sel received s = some .validationFail ↔
      ∀ p, takeFrame F sel received = some p → p.field ≠ rightField order x p.function p.span := by
  unfold receiveFrame
  cases takeFrame F sel received with
  | none => simp
  | some q => simp [checkField_eq]

/-- A frame with any field but the right one comes to ValidationFail (R77). -/
theorem receiveFrame_of_field_ne (h : p.Fits F sel)
    (hne : p.field ≠ rightField order x p.function p.span) :
    receiveFrame order x F sel p.bytes s = some .validationFail := by
  refine receiveFrame_eq_validationFail_iff.mpr fun q hq => ?_
  obtain rfl : p = q := Option.some.inj ((takeFrame_bytes h).symm.trans hq)
  exact hne

/-- A frame without its last byte comes to ValidationFail (R77; log entry 17). -/
theorem receiveFrame_dropLast (h : p.Fits F sel) :
    receiveFrame order x F sel p.bytes.dropLast s = some .validationFail := by
  rw [receiveFrame, takeFrame_dropLast h]

end Receive

/-- Settles O55: parts that fit are what comes apart, and the field is compared with the right one. -/
theorem receivedFrameIsAcceptedExactlyWithTheFieldOfItsSpan :
    Obligations.ReceivedFrameIsAcceptedExactlyWithTheFieldOfItsSpan := by
  refine fun F sel received => ⟨fun p => ?apart, fun order x s => ⟨fun p => ?accepted, ?total⟩⟩
  case apart =>
    rw [takeFrame_eq_some_iff]
    exact and_congr_right fun _ => ⟨fun h => ⟨h.len_length, h.cmd_length, h.function_eq,
      h.field_length, h.readLen_eq⟩, fun ⟨hlen, hcmd, hfun, hfield, hcount⟩ =>
      ⟨hlen, hcmd, hfun, hfield, hcount⟩⟩
  case accepted =>
    rw [receiveFrame_eq_accepted_iff]
    obtain ⟨f, len, cmd, payload, field⟩ := p
    cases f <;> rfl
  case total =>
    by_cases hfail : receiveFrame order x F sel received s = some .validationFail
    · exact .inl hfail
    · rw [receiveFrame_eq_validationFail_iff] at hfail
      push Not at hfail
      obtain ⟨p, htake, hright⟩ := hfail
      exact .inr ⟨p, receiveFrame_eq_accepted_iff.mpr ⟨htake, hright⟩⟩

/-! ### The frame the host builds -/

/-- The parts of the frame the host builds: LEN holds the count, and the field is the right one (R75). -/
def builtParts (order : WireOrder) (x : CrcWord) (F : FrameFormat) (f : IntegrityFunction)
    (cmd payload : List Byte) : FrameParts where
  function := f
  len := writeLen F (lenValue f cmd payload)
  cmd := cmd
  payload := payload
  field := rightField order x f (writeLen F (lenValue f cmd payload) ++ cmd ++ payload)

section Build

variable {order : WireOrder} {x : CrcWord} {F : FrameFormat} {f : IntegrityFunction}
  {cmd payload frame : List Byte} {s : State}

theorem frameSpan_of_fits (hcmd : cmd.length = cmdWidth F)
    (hcount : lenValue f cmd payload < 256 ^ lenWidth F) :
    frameSpan F f cmd payload = some (writeLen F (lenValue f cmd payload) ++ cmd ++ payload) :=
  if_pos ⟨hcmd, hcount⟩

/-- Around a span the host places the right field and the delimiters, from every state (R75). -/
theorem buildFrame_of_frameSpan {span : List Byte} (hspan : frameSpan F f cmd payload = some span) :
    buildFrame order x F f cmd payload s =
      some ([Config.delimiter] ++ span ++ rightField order x f span ++ [Config.delimiter]) := by
  rw [buildFrame, hspan]
  simp only [integrityField_eq, Option.map_some]

/-- The host builds a frame exactly where CMD fills its field and the count fits LEN, and it is the bytes of
these parts (R75; log entry 17). -/
theorem buildFrame_eq_some_iff :
    buildFrame order x F f cmd payload s = some frame ↔
      cmd.length = cmdWidth F ∧ lenValue f cmd payload < 256 ^ lenWidth F ∧
        (builtParts order x F f cmd payload).bytes = frame := by
  have hframe (hcmd : cmd.length = cmdWidth F) (hcount : lenValue f cmd payload < 256 ^ lenWidth F) :
      buildFrame order x F f cmd payload s = some (builtParts order x F f cmd payload).bytes := by
    rw [buildFrame_of_frameSpan (frameSpan_of_fits hcmd hcount)]
    simp only [FrameParts.bytes, builtParts, List.append_assoc]
  constructor
  · intro h
    cases hspan : frameSpan F f cmd payload with
    | none => rw [buildFrame, hspan] at h; cases h
    | some span =>
      obtain ⟨hcmd, hcount, -⟩ := frameSpan_eq_some hspan
      exact ⟨hcmd, hcount, Option.some.inj ((hframe hcmd hcount).symm.trans h)⟩
  · rintro ⟨hcmd, hcount, rfl⟩
    exact hframe hcmd hcount

/-- The parts the host builds fit the format where its function is the one that CMD selects. -/
theorem builtParts_fits {sel : List Byte → IntegrityFunction} (hcmd : cmd.length = cmdWidth F)
    (hcount : lenValue (sel cmd) cmd payload < 256 ^ lenWidth F) :
    (builtParts order x F (sel cmd) cmd payload).Fits F sel where
  len_length := writeLen_length F _
  cmd_length := hcmd
  function_eq := rfl
  field_length := rightField_length order x (sel cmd) _
  readLen_eq := by
    simp only [builtParts, rightField_length]
    exact readLen_writeLen F _ hcount

/-- A LEN of one byte is the count, in either order (R72). -/
theorem writeLen_of_lenWidth_eq_one (hwidth : lenWidth F = 1) (n : Nat) :
    writeLen F n = [BitVec.ofNat 8 n] := by
  unfold writeLen
  split <;> rw [hwidth] <;> rfl

/-- The layout of the frame the host builds, for either function (R72, R73, R75). -/
theorem buildFrame_layout (hcmd : cmd.length = cmdWidth F)
    (hcount : lenValue f cmd payload < 256 ^ lenWidth F) :
    ∃ len span, len.length = lenWidth F ∧
      (lenWidth F = 1 → len = [BitVec.ofNat 8 (lenValue f cmd payload)]) ∧
      span = len ++ cmd ++ payload ∧ span.length = lenWidth F + cmdWidth F + payload.length ∧
      span ≠ [] ∧ frameSpan F f cmd payload = some span ∧
      buildFrame order x F f cmd payload s =
        some ([Config.delimiter] ++ span ++ rightField order x f span ++ [Config.delimiter]) := by
  have hspan := frameSpan_of_fits hcmd hcount
  have hlength : (writeLen F (lenValue f cmd payload) ++ cmd ++ payload).length =
      lenWidth F + cmdWidth F + payload.length := by
    rw [List.length_append, List.length_append, writeLen_length, hcmd]
  refine ⟨_, _, writeLen_length F _, fun hwidth => writeLen_of_lenWidth_eq_one hwidth _, rfl, hlength,
    List.ne_nil_of_length_pos ?_, hspan, buildFrame_of_frameSpan hspan⟩
  rw [hlength, lenWidth]
  omega

end Build

/-! ### The obligations about built frames -/

/-- Settles O52: the layout for either function, and the worked example by computing its two fields. -/
theorem outboundFrameCarriesTheFunctionOfItsSpan :
    Obligations.OutboundFrameCarriesTheFunctionOfItsSpan := by
  refine ⟨fun F => ⟨Nat.succ_pos _, Nat.succ_pos _⟩, fun order x F cmd payload s hcmd =>
    ⟨buildFrame_layout (f := .checksum) hcmd, buildFrame_layout (f := .crc16) hcmd⟩,
    fun v => ⟨rfl, rfl⟩, fun s => ⟨?crc, ?sum⟩⟩
  case crc =>
    have hspan : frameSpan ⟨0, 0, .msbFirst⟩ .crc16 [0x39] [0xDE, 0xAD] =
        some [0x05, 0x39, 0xDE, 0xAD] := by decide
    exact (buildFrame_of_frameSpan hspan).trans (by decide +kernel)
  case sum =>
    have hspan : frameSpan ⟨0, 0, .msbFirst⟩ .checksum [0x39] [0xDE, 0xAD] =
        some [0x04, 0x39, 0xDE, 0xAD] := by decide
    exact (buildFrame_of_frameSpan hspan).trans (by decide +kernel)

/-- Settles O56: a built frame is the bytes of parts that fit, with the right field. -/
theorem builtFrameIsTakenApartAndAccepted : Obligations.BuiltFrameIsTakenApartAndAccepted := by
  refine fun order x F sel cmd payload s s' => ⟨⟨?bounds, ?built⟩, fun frame hbuild => ?apart⟩
  case bounds =>
    rintro ⟨frame, hbuild⟩
    obtain ⟨hcmd, hcount, -⟩ := buildFrame_eq_some_iff.mp hbuild
    exact ⟨hcmd, hcount⟩
  case built => exact fun ⟨hcmd, hcount⟩ => ⟨_, buildFrame_eq_some_iff.mpr ⟨hcmd, hcount, rfl⟩⟩
  case apart =>
    obtain ⟨hcmd, hcount, rfl⟩ := buildFrame_eq_some_iff.mp hbuild
    have htake := takeFrame_bytes (builtParts_fits (order := order) (x := x) hcmd hcount)
    exact ⟨_, htake, rfl, rfl, rfl, readLen_writeLen F _ hcount, frameSpan_of_fits hcmd hcount,
      receiveFrame_eq_accepted_iff.mpr ⟨htake, rfl⟩⟩

/-- Settles O57: another field is not the right one; after a changed payload byte the field kept is not the
right one; without its last byte the frame does not come apart. -/
theorem damagedFrameIsRejected : Obligations.DamagedFrameIsRejected := by
  intro order x F sel cmd payload frame s s' hbuild
  obtain ⟨hcmd, hcount, rfl⟩ := buildFrame_eq_some_iff.mp hbuild
  have hfits := builtParts_fits (order := order) (x := x) hcmd hcount
  refine ⟨writeLen F (lenValue (sel cmd) cmd payload),
    rightField order x (sel cmd) (writeLen F (lenValue (sel cmd) cmd payload) ++ cmd ++ payload),
    rfl, hfits.field_length, fun other hlength hne => ?field, ?payload, ?truncated⟩
  case field =>
    have hfail := receiveFrame_of_field_ne (order := order) (x := x) (s := s')
      (hfits.withField hlength) hne
    exact hfail
  case payload =>
    rintro a b d d' rfl hne
    have hlength : (a ++ [d'] ++ b).length = (a ++ [d] ++ b).length := by
      simp only [List.length_append, List.length_singleton]
    have hright := rightField_ne_of_byte_ne order x (sel cmd)
      (writeLen F (lenValue (sel cmd) cmd (a ++ [d] ++ b)) ++ cmd ++ a) b hne
    have hfail := receiveFrame_of_field_ne (order := order) (x := x) (s := s')
      (hfits.withPayload hlength)
      (by simpa only [builtParts, FrameParts.span, List.append_assoc] using hright)
    exact hfail
  case truncated =>
    have hfail := receiveFrame_dropLast (order := order) (x := x) (s := s') hfits
    rw [FrameParts.bytes_dropLast] at hfail
    exact hfail

end Sys2Proof.Machine

/-! ## Proofs: when a step is refused, and what reset does (60_exceptions.md rules R80, R82, R86) -/

namespace Sys2Proof.Machine

/-! ### A step answers a next state or is refused -/

/-- The one input a step does not take: a reserved word without reset (R34). -/
theorem PortInput.meaningful_eq_false_iff {p : PortInput} :
    p.meaningful = false ↔ ∃ cw, p = .command cw ∧ opField cw = 0b11#2 := by
  obtain ⟨_ | _, _ | cw⟩ := p <;> simp [PortInput.meaningful, PortInput.command]

/-- The next item the host presents is a reserved word without reset. -/
def ReservedWordIsNext (s : State) : Prop :=
  ∃ cw rest, s.port = PortInput.command cw :: rest ∧ opField cw = 0b11#2

/-- There is no fault (R86), so a step that answers no next state is refused. -/
theorem step_refused_iff_not_next (s : State) :
    (∃ r, step s = .refused r) ↔ ¬ ∃ t, step s = .next t := by
  cases step s with
  | next t => simp
  | fault f => cases f
  | refused r => simp

/-- The block is never stuck (R80). -/
theorem step_next_iff (s : State) : (∃ t, step s = .next t) ↔ ¬ ReservedWordIsNext s := by
  constructor
  · rintro ⟨t, hnext⟩ ⟨cw, rest, hport, hop⟩
    have hrefused := step_of_reserved hop hport
    cases hnext.symm.trans hrefused
  · intro hnot
    cases hport : s.port with
    | nil => exact ⟨s, step_of_port_nil hport⟩
    | cons p rest =>
      cases hp : p.meaningful with
      | true =>
        obtain ⟨t, ht, -⟩ := accept_of_meaningful hp { s with port := rest }
        exact ⟨t, (step_of_port_cons hport).trans ht⟩
      | false =>
        obtain ⟨cw, rfl, hop⟩ := PortInput.meaningful_eq_false_iff.mp hp
        exact absurd ⟨cw, rest, hport, hop⟩ hnot

theorem step_refused_iff (s : State) : (∃ r, step s = .refused r) ↔ ReservedWordIsNext s := by
  rw [step_refused_iff_not_next, step_next_iff, not_not]

/-- Settles O9: a step goes on at every meaningful input and at an empty port, and without faults the
refused steps are the others. -/
theorem noFaultAndExactlyReservedWordsAreRefused :
    Obligations.NoFaultAndExactlyReservedWordsAreRefused :=
  ⟨⟨fun f => nomatch f⟩, step_refused_iff, step_next_iff⟩

/-! ### Reset -/

/-- Reset wins over whatever stands on the command input (R82). -/
theorem accept_of_reset (c : Option CommandWord) (s : State) :
    accept ⟨true, c⟩ s = .next (applyReset s) := rfl

/-- Settles O12: the step is `applyReset`, and INIT.CS leaves what reset leaves. -/
theorem resetWinsOverACommandInTheSameStep : Obligations.ResetWinsOverACommandInTheSameStep :=
  fun s c rest hport =>
    ⟨(step_of_port_cons hport).trans (accept_of_reset c { s with port := rest }),
      exec_initCS_eq_reset { s with port := rest }⟩

end Sys2Proof.Machine

/-! ## Proofs: spans after reset, without an INIT and read early (70_reset_and_hazards.md rules R90, R92, R94) -/

namespace Sys2Proof.Machine

/-! ### A span after reset (R90) -/

/-- Reset and then inputs that each add the byte they hand to a unit: the unit holds these bytes, if after reset
it holds the empty span. -/
theorem runSteps_reset_extends_span {Holds : List Byte → State → Prop}
    {byte : PortInput → Option Byte} (hreset : ∀ s, Holds [] (applyReset s))
    (hwithPort : ∀ {bs s}, Holds bs s → ∀ ps, Holds bs { s with port := ps })
    {ps : List PortInput} (haccept : ∀ p ∈ ps, ∀ {bs s}, Holds bs s →
      ∃ t, accept p s = .next t ∧ t.port = s.port ∧ Holds (bs ++ (byte p).toList) t)
    {s : State} {c : Option CommandWord} {rest : List PortInput}
    (hport : s.port = ⟨true, c⟩ :: ps ++ rest) :
    ∃ t, runSteps (ps.length + 1) s = .next t ∧ t.port = rest ∧ Holds (ps.filterMap byte) t := by
  have hstep : step s = .next (applyReset { s with port := ps ++ rest }) :=
    (step_of_port_cons hport).trans (accept_of_reset c _)
  rw [runSteps_succ hstep]
  exact runSteps_extends_span hwithPort haccept (hreset _) rfl

theorem HoldsCrcSpan.applyReset (s : State) : HoldsCrcSpan [] (applyReset s) :=
  ⟨crcReg_nil.symm, rfl⟩

theorem HoldsSumSpan.applyReset (s : State) : HoldsSumSpan [] (applyReset s) :=
  ⟨sum8_nil.symm, rfl⟩

/-- Settles O15: after reset each unit holds the empty span, and each input adds its byte. -/
theorem spanAfterResetNeedsNoInit : Obligations.SpanAfterResetNeedsNoInit := by
  refine fun s c ps rest hport => ⟨fun hps => ?crc, fun hps => ?sum⟩
  case crc =>
    obtain ⟨t, ht, htport, hcrc, -⟩ := runSteps_reset_extends_span (Holds := HoldsCrcSpan)
      (byte := PortInput.crcByte) .applyReset .withPort (fun p hp _ _ h => h.accept (hps p hp)) hport
    exact ⟨t, ht, htport, fun x => congrArg (· ^^^ x) hcrc⟩
  case sum =>
    obtain ⟨t, ht, htport, hsum, -⟩ := runSteps_reset_extends_span (Holds := HoldsSumSpan)
      (byte := PortInput.sumByte) .applyReset .withPort (fun p hp _ _ h => h.accept (hps p hp)) hport
    exact ⟨t, ht, htport, hsum⟩

/-! ### BYTE without INIT (R92) -/

/-- BYTE.CS words lengthen both histories by their bytes, whatever these were. -/
theorem serve_byteCS_histories (ds : List Byte) (s : State) :
    ∃ t, serve (ds.map fun d => encode (.byteCS d)) s = .next t ∧
      t.histC = s.histC ++ ds ∧ t.histS = s.histS ++ ds := by
  induction ds generalizing s with
  | nil => exact ⟨s, rfl, (List.append_nil _).symm, (List.append_nil _).symm⟩
  | cons d ds ih =>
    obtain ⟨t, ht, hhistC, hhistS⟩ := ih (absorbSum d (absorbCrc d s))
    rw [List.map_cons, serve_encode_cons rfl (exec_byteCS d s)]
    exact ⟨t, ht, by simpa using hhistC, by simpa using hhistS⟩

theorem serve_keeps_historyInv {ws : List CommandWord} {s t : State} (hs : HistoryInv s)
    (h : serve ws s = .next t) : HistoryInv t :=
  runSteps_keeps (fun _ _ => step_keeps_historyInv)
    (hs.withPort (ws.map PortInput.command ++ s.port)) h

@[simp] theorem afterSpan_crc (us : Bool) (span : List Byte) (s : State) :
    (afterSpan true us span s).crc = crcReg span := rfl

@[simp] theorem afterSpan_sum (uc : Bool) (span : List Byte) (s : State) :
    (afterSpan uc true span s).sum = sum8 span := rfl

/-- Settles O50: the histories go on, and by the invariant of R15 the registers follow them. In the rule's numbers
the byte 0x33 comes once to the span 0x31, 0x32 and once to the empty span. -/
theorem missingInitContinuesTheOldSpan : Obligations.MissingInitContinuesTheOldSpan := by
  refine ⟨fun ds s hs => ?continues, fun s => ?numbers⟩
  case continues =>
    obtain ⟨t, ht, hhistC, hhistS⟩ := serve_byteCS_histories ds s
    have hinv : HistoryInv t := serve_keeps_historyInv hs ht
    exact ⟨t, ht, hhistC ▸ hinv.crc_eq, hhistS ▸ hinv.sum_eq⟩
  case numbers =>
    obtain ⟨hcrc12, hsum12⟩ :
        crcReg [0x31, 0x32] = 0x3DBA ∧ sum8 [0x31, 0x32] = 0x63 := by decide +kernel
    obtain ⟨hcrc123, hsum123⟩ :
        crcReg [0x31, 0x32, 0x33] = 0x5BCE ∧ sum8 [0x31, 0x32, 0x33] = 0x96 := by decide +kernel
    obtain ⟨hcrc3, hsum3⟩ : crcReg [0x33] = 0xE7C0 ∧ sum8 [0x33] = 0x33 := by decide +kernel
    exact ⟨_, _, _, serve_spanCommands true true [0x31, 0x32] s,
      (afterSpan_crc ..).trans hcrc12, (afterSpan_sum ..).trans hsum12,
      serve_byteForm_afterSpan true true [0x31, 0x32] [0x33] s,
      (afterSpan_crc ..).trans hcrc123, (afterSpan_sum ..).trans hsum123,
      serve_spanCommands true true [0x33] _,
      (afterSpan_crc ..).trans hcrc3, (afterSpan_sum ..).trans hsum3⟩

/-! ### A read in the middle of a span (R94) -/

theorem present_append (ws vs : List CommandWord) (s : State) :
    present (ws ++ vs) s = present ws (present vs s) :=
  state_ext rfl rfl rfl rfl (by simp)

/-- As many steps as there are words at the front serve these words, before those behind them. -/
theorem runSteps_present_append (ws vs : List CommandWord) (s : State) :
    runSteps ws.length (present (ws ++ vs) s) = serve ws (present vs s) := by
  rw [present_append, serve]

/-- The commands of a span begin with those of its first `k` bytes. -/
theorem spanCommands_eq_take_append (uc us : Bool) (span : List Byte) (k : Nat) :
    spanCommands uc us span =
      spanCommands uc us (span.take k) ++ (span.drop k).map (byteForm uc us) := by
  rw [spanCommands, spanCommands, List.cons_append, ← List.map_append, List.take_append_drop]

/-- The INIT and `k` BYTEs of a span leave the state after its first `k` bytes, the words of the others still to
come. -/
theorem runSteps_present_spanCommands (uc us : Bool) {span : List Byte} {k : Nat}
    (hk : k ≤ span.length) (s : State) :
    runSteps (k + 1) (present ((spanCommands uc us span).map encode) s) =
      .next (afterSpan uc us (span.take k)
        (present (((span.drop k).map (byteForm uc us)).map encode) s)) := by
  have hlength : ((spanCommands uc us (span.take k)).map encode).length = k + 1 := by
    rw [spanCommands_words_length, List.length_take_of_le hk]
  rw [spanCommands_eq_take_append uc us span k, List.map_append, ← hlength,
    runSteps_present_append, serve_spanCommands]

/-- Settles O51: a read of the state after the first `k` bytes. -/
theorem earlyReadShowsTheBytesFedSoFar : Obligations.EarlyReadShowsTheBytesFedSoFar := by
  intro span s k hk
  rw [crcMacro_eq, sumMacro_eq, runSteps_present_spanCommands true false hk,
    runSteps_present_spanCommands false true hk]
  exact ⟨fun _ => rfl, rfl⟩

end Sys2Proof.Machine

/-! ## Proofs: the encoding vectors (95_test_vectors.md section 8) -/

namespace Sys2Proof

/-- Settles O5: three words with `op = 00`, four with `op = 01` and four with `op = 10`; the fields of each word
are read off its bits. -/
theorem wordsOfTheSpecDecodeAsPrinted : Obligations.WordsOfTheSpecDecodeAsPrinted :=
  ⟨decode_of_opField_nop rfl, decode_of_opField_nop rfl, decode_of_opField_nop rfl,
    decode_of_opField_init rfl, decode_of_opField_init rfl,
    decode_of_opField_init rfl, decode_of_opField_init rfl,
    decode_of_opField_byte rfl, decode_of_opField_byte rfl,
    decode_of_opField_byte rfl, decode_of_opField_byte rfl⟩

end Sys2Proof
